-- ==== Sys2Proof/Word.lean ====
section
/-! DEFINITION. The value types of the block: bytes, words, opcodes and command bundles (spec rules R8, R9). -/

namespace Sys2Proof

/-- A field element: an 8-bit unsigned value, bit k the coefficient of X^k (R46). -/
abbrev Byte := BitVec 8

/-- A field vector or an operand port value: 32 bits, unsigned (R8, R9). -/
abbrev Word := BitVec 32

/-- A command opcode, 4 bits (R61). -/
abbrev Opcode := BitVec 4

/-- A whole command, `op` in bits 67:64, `a` in 63:32, `b` in 31:0 (R60). -/
abbrev Bundle := BitVec 68

end Sys2Proof
end

