-- ==== Sys2Proof/Config.lean ====
section
/-! DEFINITION. The implementation parameters of rule R8, each fixed for this hardware. The spec leaves no value of any
operation open, so there is no free value here. -/

namespace Sys2Proof.Config

/-- Width of a field element (`ELEM_W`). -/
def elemW : Nat := 8

/-- Width of a field vector (`WORD_W`). -/
def wordW : Nat := 32

/-- Elements per word (`WORD_ELEMS`). -/
def wordElems : Nat := 4

/-- The defining polynomial X^8 + X^4 + X^3 + X + 1 (`POLY`, R2). -/
def poly : BitVec 9 := 0x11B#9

/-- The reduction constant `RED`: the low eight bits of the polynomial (R2, R8). -/
def red : Byte := poly.setWidth 8

/-- Entries of the inverse ROM, indices 0 to 254 (`ROM_DEPTH`). -/
def romDepth : Nat := 255

/-- Width of a ROM entry (`ROM_W`). -/
def romW : Nat := 8

/-- Width of the opcode (`OP_W`, D4). -/
def opW : Nat := 4

/-- Width of the POW8 exponent, unsigned (`EXP_W`, D9). -/
def expW : Nat := 32

/-- Edges from the presentation of a command to its visible response (`LATENCY`, D14). -/
def latency : Nat := 1

/-- What POW8 answers for exponent 0 (`P_POW0_MODE`, R83). -/
inductive Pow0Mode where
  /-- `gf_pow8(a, 0) = a`: this hardware. -/
  | legacyA
  /-- `gf_pow8(a, 0) = 0x01`: named by R83 so that a model can state the difference; not this hardware. -/
  | conventionalOne
deriving DecidableEq, Repr

/-- `P_POW0_MODE` of this hardware (R8, D10). -/
def pow0Mode : Pow0Mode := .legacyA

end Sys2Proof.Config
end

