-- ==== Sys2Proof/Syntax.lean ====
section
/-! DEFINITION. The commands: one constructor per row of spec/opcode_table.json (rule R61), and the lines of a host
program's listing (rule R68). -/

namespace Sys2Proof

/-- A decoded command. Every constructor keeps both operand ports whole, the bits its operation ignores included, so that
a command and its bundle are the same information (R60, R63). -/
inductive Instr where
  /-- ADD8: `zext(a[7:0] ^ b[7:0])` (R85). -/
  | add8 (a b : Word)
  /-- XTIME8: doubling of `a[7:0]` (R86). -/
  | xtime8 (a b : Word)
  /-- MUL8: field product of `a[7:0]` and `b[7:0]` (R87). -/
  | mul8 (a b : Word)
  /-- POW8: `a[7:0]` to the unsigned exponent `b` (R88). -/
  | pow8 (a b : Word)
  /-- INV8: inverse of `a[7:0]` through the ROM (R89). -/
  | inv8 (a b : Word)
  /-- ADD32: element-wise word addition (R123). -/
  | add32 (a b : Word)
  /-- CMUL32: circulant word product (R124). -/
  | cmul32 (a b : Word)
  /-- RSVD.7: reserved opcode 0x7, ILLEGAL_OP (R65, R141). -/
  | rsvd7 (a b : Word)
  /-- RSVD.8: reserved opcode 0x8, ILLEGAL_OP (R65, R141). -/
  | rsvd8 (a b : Word)
  /-- RSVD.9: reserved opcode 0x9, ILLEGAL_OP (R65, R141). -/
  | rsvd9 (a b : Word)
  /-- RSVD.A: reserved opcode 0xA, ILLEGAL_OP (R65, R141). -/
  | rsvdA (a b : Word)
  /-- RSVD.B: reserved opcode 0xB, ILLEGAL_OP (R65, R141). -/
  | rsvdB (a b : Word)
  /-- RSVD.C: reserved opcode 0xC, ILLEGAL_OP (R65, R141). -/
  | rsvdC (a b : Word)
  /-- RSVD.D: reserved opcode 0xD, ILLEGAL_OP (R65, R141). -/
  | rsvdD (a b : Word)
  /-- RSVD.E: reserved opcode 0xE, ILLEGAL_OP (R65, R141). -/
  | rsvdE (a b : Word)
  /-- RSVD.F: reserved opcode 0xF, ILLEGAL_OP (R65, R141). -/
  | rsvdF (a b : Word)
deriving DecidableEq, Repr

/-- One line of a host program's listing (R68): a command with operands that may be left out, an edge with
`in_valid = 0`, or an edge with `rst = 1`. -/
inductive Line where
  | command (op : Opcode) (a b : Option Word)
  | idle
  | reset
deriving DecidableEq, Repr

end Sys2Proof
end

