-- ==== Sys2Proof/WellFormed.lean ====
section
/-! DEFINITION. Well-formedness. "The operand fields are never checked, and every 32-bit value is legal in `a` and `b`"
(R66), so every command is well-formed, arm by arm; a listing line is checked for the operands it leaves out (R68). -/

namespace Sys2Proof

/-- No command is ill-formed (R66, R140): the types already hold exactly the legal field values. -/
def Instr.wf : Instr → Bool
  | .add8 _ _ => true
  | .xtime8 _ _ => true
  | .mul8 _ _ => true
  | .pow8 _ _ => true
  | .inv8 _ _ => true
  | .add32 _ _ => true
  | .cmul32 _ _ => true
  | .rsvd7 _ _ => true
  | .rsvd8 _ _ => true
  | .rsvd9 _ _ => true
  | .rsvdA _ _ => true
  | .rsvdB _ _ => true
  | .rsvdC _ _ => true
  | .rsvdD _ _ => true
  | .rsvdE _ _ => true
  | .rsvdF _ _ => true

/-- The opcodes that ignore all of `in_a`: the reserved ones (R62, R141). -/
def ignoresA (op : Opcode) : Bool := 7 ≤ op.toNat

/-- The opcodes that ignore all of `in_b`: XTIME8, INV8 and the reserved ones (R62, R141). -/
def ignoresB (op : Opcode) : Bool := op = 0x1#4 || op = 0x4#4 || 7 ≤ op.toNat

/-- A listing may leave out only an operand that the operation ignores entirely (R68). -/
def Line.wf : Line → Bool
  | .command op a b => (a.isSome || ignoresA op) && (b.isSome || ignoresB op)
  | .idle => true
  | .reset => true

end Sys2Proof
end

