-- ==== Sys2Proof/Decode.lean ====
section
/-! DEFINITION. The decoder and, after it, the encoder, both from rules R60 and R61. A command is a 68-bit bundle, never a
byte string: decoding is total on bundles and refuses none, since each of the 16 opcodes selects a row (R66). -/

namespace Sys2Proof

/-- The `op` field of a bundle, bits 67:64 (R60). -/
def bundleOp (w : Bundle) : Opcode := w.extractLsb' 64 4

/-- The `a` field of a bundle, bits 63:32 (R60). -/
def bundleA (w : Bundle) : Word := w.extractLsb' 32 32

/-- The `b` field of a bundle, bits 31:0 (R60). -/
def bundleB (w : Bundle) : Word := w.extractLsb' 0 32

/-- `{op, a, b}` with `op` the most significant (R60, R10). -/
def bundleOf (op : Opcode) (a b : Word) : Bundle := op ++ a ++ b

/-- The opcode map of R61, on the three fields as the ports carry them: the opcode's bits 3, 2, 1, 0 as the map writes
them. All 16 values have a row (R66). -/
def decodeFields (op : Opcode) (a b : Word) : Instr :=
  match op.getLsbD 3, op.getLsbD 2, op.getLsbD 1, op.getLsbD 0 with
  | false, false, false, false => .add8 a b
  | false, false, false, true => .xtime8 a b
  | false, false, true, false => .mul8 a b
  | false, false, true, true => .pow8 a b
  | false, true, false, false => .inv8 a b
  | false, true, false, true => .add32 a b
  | false, true, true, false => .cmul32 a b
  | false, true, true, true => .rsvd7 a b
  | true, false, false, false => .rsvd8 a b
  | true, false, false, true => .rsvd9 a b
  | true, false, true, false => .rsvdA a b
  | true, false, true, true => .rsvdB a b
  | true, true, false, false => .rsvdC a b
  | true, true, false, true => .rsvdD a b
  | true, true, true, false => .rsvdE a b
  | true, true, true, true => .rsvdF a b

/-- Decoding of a whole bundle (R60, R61, R66). -/
def decodeBundle (w : Bundle) : Instr := decodeFields (bundleOp w) (bundleA w) (bundleB w)

/-- The opcode of a command (R61). -/
def Instr.opcode : Instr → Opcode
  | .add8 _ _ => 0x0#4
  | .xtime8 _ _ => 0x1#4
  | .mul8 _ _ => 0x2#4
  | .pow8 _ _ => 0x3#4
  | .inv8 _ _ => 0x4#4
  | .add32 _ _ => 0x5#4
  | .cmul32 _ _ => 0x6#4
  | .rsvd7 _ _ => 0x7#4
  | .rsvd8 _ _ => 0x8#4
  | .rsvd9 _ _ => 0x9#4
  | .rsvdA _ _ => 0xA#4
  | .rsvdB _ _ => 0xB#4
  | .rsvdC _ _ => 0xC#4
  | .rsvdD _ _ => 0xD#4
  | .rsvdE _ _ => 0xE#4
  | .rsvdF _ _ => 0xF#4

/-- The value on `in_a` of a command (R62). -/
def Instr.portA : Instr → Word
  | .add8 a _ => a
  | .xtime8 a _ => a
  | .mul8 a _ => a
  | .pow8 a _ => a
  | .inv8 a _ => a
  | .add32 a _ => a
  | .cmul32 a _ => a
  | .rsvd7 a _ => a
  | .rsvd8 a _ => a
  | .rsvd9 a _ => a
  | .rsvdA a _ => a
  | .rsvdB a _ => a
  | .rsvdC a _ => a
  | .rsvdD a _ => a
  | .rsvdE a _ => a
  | .rsvdF a _ => a

/-- The value on `in_b` of a command (R62). -/
def Instr.portB : Instr → Word
  | .add8 _ b => b
  | .xtime8 _ b => b
  | .mul8 _ b => b
  | .pow8 _ b => b
  | .inv8 _ b => b
  | .add32 _ b => b
  | .cmul32 _ b => b
  | .rsvd7 _ b => b
  | .rsvd8 _ b => b
  | .rsvd9 _ b => b
  | .rsvdA _ b => b
  | .rsvdB _ b => b
  | .rsvdC _ b => b
  | .rsvdD _ b => b
  | .rsvdE _ b => b
  | .rsvdF _ b => b

/-- The bundle of a command (R60, R61). -/
def encode (i : Instr) : Bundle := bundleOf i.opcode i.portA i.portB

/-- The bundle whose bits are `w` in spec/opcode_table.json's numbering, of which the low `nbits` are given and the others
are 0. DESIGN CHOICE (log entry 5): the table's `fixed` puts the opcode in bits 3:0, so the three ports are taken as the
command's words in the order of R60: `op` in bits 3:0, then `a` in 35:4, then `b` in 67:36; bits that pad 68 to whole bytes
carry nothing. -/
def tableBundle (nbits w : Nat) : Bundle :=
  let bits : Bundle := BitVec.ofNat 68 (w % 2 ^ nbits)
  bundleOf (bits.extractLsb' 0 4) (bits.extractLsb' 4 32) (bits.extractLsb' 36 32)

/-- The decoder on a word in the opcode table's numbering. It never answers `none`: no bundle is refused (R66). -/
def decodeTableWord (nbits w : Nat) : Option Instr := some (decodeBundle (tableBundle nbits w))

end Sys2Proof
end

