-- ==== Sys2Proof/Machine/State.lean ====
section
/-! DEFINITION. The state of the block, the inputs it samples, the reasons a step can stop, and the state right after
reset (rules R20 to R36). -/

namespace Sys2Proof.Machine

/-- The input ports as sampled at one rising edge of `clk` (R26). Every input is a defined bit vector (R36, D25; log entry
8); `clk` itself is the step. -/
structure PortSample where
  rst : Bool
  inValid : Bool
  inOp : Opcode
  inA : Word
  inB : Word
deriving DecidableEq, Repr

/-- What the host puts on an operand port at an edge (R36): a value of its own, or `out_data` as it stands in the cycle
before the edge ("chain a result"). DESIGN CHOICE, log entry 9. -/
inductive Drive where
  | value (w : Word)
  | outData
deriving DecidableEq, Repr

/-- What the host drives at one edge (R26, R36). -/
structure HostMove where
  rst : Bool
  inValid : Bool
  inOp : Opcode
  inA : Drive
  inB : Drive
deriving DecidableEq, Repr

/-- The reasons an edge has no next state. -/
inductive Fault where
  /-- Raised by every edge with `rst = 0` before the first reset edge since power-up: "A model has no step for the block
  before its first reset" (R171, R33). SAFE: the hardware goes on there with no defined response, and the model proves
  nothing of it (log entry 3). -/
  | noResetYet
deriving DecidableEq, Repr

/-- The reasons an instruction has no meaning. -/
inductive Refusal where
  /-- For an instruction that `exec` does not model; no arm of `exec` raises it. SAFE. -/
  | notModelled (mnemonic : String)
deriving DecidableEq, Repr

/-- The state: the four registers of R20 (`INV_ROM` is a constant, R42), and two fields of the model's own. -/
structure State where
  /-- `RES`, the data of the most recent response (R21). -/
  res : Word
  /-- `OV`, output valid (R22). -/
  ov : Bool
  /-- `OE`, output error (R23). -/
  oe : Bool
  /-- `ES`, error sticky (R24). -/
  es : Bool
  /-- The model's own: a reset edge has happened since power-up. While it is false the four registers are unspecified
  (R33) and no step reads them. DEDUCED, log entry 3. -/
  resetDone : Bool
  /-- The model's own: what the host drives at the coming edges, next edge first (R36). DESIGN CHOICE, log entry 1. -/
  host : List HostMove
deriving DecidableEq, Repr

/-- What one edge, or one command, answers. -/
abbrev Result := Host.Outcome State Fault Refusal

/-- The machine right after reset (R32). Nothing is listed for the host to drive (log entries 1 and 2). -/
def State.reset : State where
  res := 0x00000000#32
  ov := false
  oe := false
  es := false
  resetDone := true
  host := []

end Sys2Proof.Machine
end

