-- ==== Sys2Proof/Machine/Flags.lean ====
section
/-! DEFINITION. The three one-bit flags `OV`, `OE`, `ES` in the three cases of the clock-edge step (rules R22 to R24, R34). -/

namespace Sys2Proof.Machine

/-- The flags at an edge that accepts a command with error bit `e`: `OV <- 1 ; OE <- e ; ES <- ES | e` (R34). -/
def State.flagsAccepted (s : State) (e : Bool) : State := { s with ov := true, oe := e, es := s.es || e }

/-- The flags at an idle edge: `OV <- 0 ; OE <- 0`, `ES` kept (R34). -/
def State.flagsIdle (s : State) : State := { s with ov := false, oe := false }

/-- The flags at a reset edge: all 0 (R32, R160). -/
def State.flagsReset (s : State) : State := { s with ov := false, oe := false, es := false }

end Sys2Proof.Machine
end

