-- ==== Sys2Proof/Machine/Ops.lean ====
section
/-! DEFINITION. The named operations on the registers: giving a response, the error response, the idle edge and the reset
edge (rules R34, R141, R160), and the output ports (rule R27). The block takes no exception and returns from none (R144):
`respondError` is its complete error mechanism. -/

namespace Sys2Proof.Machine

/-- `RES <- d` (R34). -/
def State.setRes (s : State) (d : Word) : State := { s with res := d }

/-- The state after a response with data `d` and error bit `e`: `RES <- d ; OV <- 1 ; OE <- e ; ES <- ES | e` (R34). -/
def State.accept (s : State) (d : Word) (e : Bool) : State := (s.setRes d).flagsAccepted e

/-- The state after a reset edge: the values of R32, whatever the registers held (R160). From here on the rules hold (R164). -/
def State.cleared (s : State) : State := { (s.setRes 0).flagsReset with resetDone := true }

/-- An edge with `rst = 0` has its effect only after a first reset; before it the block has no step (R33, R171; log entry
3). -/
def State.afterReset (s t : State) : Result := if s.resetDone then .next t else .fault .noResetYet

/-- An accepted command answers `(d, e)` (R34). -/
def State.respond (s : State) (d : Word) (e : Bool) : Result := s.afterReset (s.accept d e)

/-- The response of a legal byte operation: `RES <- zext_32(r8)`, no error (R64, R140). -/
def State.respondByte (s : State) (r8 : Byte) : Result := s.respond (r8.setWidth 32) false

/-- The response of a legal word operation, no error (R64, R140). -/
def State.respondWord (s : State) (d : Word) : Result := s.respond d false

/-- `respond_error()`: ILLEGAL_OP, data 0 with the error bit (R141). -/
def State.respondError (s : State) : Result := s.respond 0x00000000#32 true

/-- An edge with `rst = 0` and `in_valid = 0` (R34). -/
def State.idleEdge (s : State) : Result := s.afterReset s.flagsIdle

/-- An edge with `rst = 1`: one such edge resets the block fully, from power-up too (R160, R161, R164). -/
def State.resetEdge (s : State) : Result := .next s.cleared

/-- Before the first reset an output shows nothing a host may use (R33, R171): no value. -/
def State.shown {α : Type} (s : State) (v : α) : Option α := if s.resetDone then some v else none

/-- `in_ready`: constant 1 (R27, R166). -/
def State.inReady (_ : State) : Bool := true

/-- `out_valid`, driven by `OV` (R27). -/
def State.outValid (s : State) : Option Bool := s.shown s.ov

/-- `out_data`, driven by `RES` (R27). -/
def State.outData (s : State) : Option Word := s.shown s.res

/-- `out_err`, driven by `OE` (R27). Its value is the cause code: 1 is ILLEGAL_OP, 0 is no error (R141). -/
def State.outErr (s : State) : Option Bool := s.shown s.oe

/-- `err_sticky`, driven by `ES` (R27). -/
def State.errSticky (s : State) : Option Bool := s.shown s.es

end Sys2Proof.Machine
end

