-- ==== Sys2Proof/Machine/Operands.lean ====
section
/-! DEFINITION. Every operand form: the byte lane of an operand port, the elements of a word (rules R45, R62), the bits an
operation uses (R62, R63), and what a host move puts on the ports (R36). -/

namespace Sys2Proof.Machine

/-- `A8 = a[7:0]`, `B8 = b[7:0]`: the operand of a byte operation (R62). -/
def byteOperand (w : Word) : Byte := w.extractLsb' 0 8

/-- Element `k` of a word, most significant byte first: `e_k(w) = w[31-8k : 24-8k]` (R45). -/
def elem (k : Fin 4) (w : Word) : Byte := w.extractLsb' (24 - 8 * k.val) 8

/-- `combine_be(e0, e1, e2, e3) = {e0, e1, e2, e3}` (R11, R45). -/
def combineBe (e0 e1 e2 e3 : Byte) : Word := e0 ++ e1 ++ e2 ++ e3

/-- The bits of `in_a` that an operation uses; the others are ignored (R62). A reserved opcode uses none (R141). -/
def usedA : Instr → Word
  | .add8 _ _ => 0x000000FF#32
  | .xtime8 _ _ => 0x000000FF#32
  | .mul8 _ _ => 0x000000FF#32
  | .pow8 _ _ => 0x000000FF#32
  | .inv8 _ _ => 0x000000FF#32
  | .add32 _ _ => 0xFFFFFFFF#32
  | .cmul32 _ _ => 0xFFFFFFFF#32
  | .rsvd7 _ _ => 0x00000000#32
  | .rsvd8 _ _ => 0x00000000#32
  | .rsvd9 _ _ => 0x00000000#32
  | .rsvdA _ _ => 0x00000000#32
  | .rsvdB _ _ => 0x00000000#32
  | .rsvdC _ _ => 0x00000000#32
  | .rsvdD _ _ => 0x00000000#32
  | .rsvdE _ _ => 0x00000000#32
  | .rsvdF _ _ => 0x00000000#32

/-- The bits of `in_b` that an operation uses; the others are ignored (R62). A reserved opcode uses none (R141). -/
def usedB : Instr → Word
  | .add8 _ _ => 0x000000FF#32
  | .xtime8 _ _ => 0x00000000#32
  | .mul8 _ _ => 0x000000FF#32
  | .pow8 _ _ => 0xFFFFFFFF#32
  | .inv8 _ _ => 0x00000000#32
  | .add32 _ _ => 0xFFFFFFFF#32
  | .cmul32 _ _ => 0xFFFFFFFF#32
  | .rsvd7 _ _ => 0x00000000#32
  | .rsvd8 _ _ => 0x00000000#32
  | .rsvd9 _ _ => 0x00000000#32
  | .rsvdA _ _ => 0x00000000#32
  | .rsvdB _ _ => 0x00000000#32
  | .rsvdC _ _ => 0x00000000#32
  | .rsvdD _ _ => 0x00000000#32
  | .rsvdE _ _ => 0x00000000#32
  | .rsvdF _ _ => 0x00000000#32

/-- The value a drive puts on an operand port at an edge: `out_data` is `RES` as it stands before the edge (R27, R168). -/
def Drive.at (d : Drive) (s : State) : Word :=
  match d with
  | .value w => w
  | .outData => s.res

/-- The input ports as a host move drives them in state `s` (R26, R36). -/
def HostMove.sample (m : HostMove) (s : State) : PortSample where
  rst := m.rst
  inValid := m.inValid
  inOp := m.inOp
  inA := m.inA.at s
  inB := m.inB.at s

/-- The bundle that the three command ports carry (R60). -/
def PortSample.bundle (p : PortSample) : Bundle := bundleOf p.inOp p.inA p.inB

/-- The host presents a command with operand values of its own. -/
def HostMove.present (op : Opcode) (a b : Word) : HostMove where
  rst := false
  inValid := true
  inOp := op
  inA := .value a
  inB := .value b

/-- The host presents nothing: `in_valid = 0` (R68). -/
def HostMove.idle : HostMove where
  rst := false
  inValid := false
  inOp := 0
  inA := .value 0
  inB := .value 0

/-- The host asserts `rst` and presents no command (R68). -/
def HostMove.reset : HostMove where
  rst := true
  inValid := false
  inOp := 0
  inA := .value 0
  inB := .value 0

end Sys2Proof.Machine
end

