-- ==== Sys2Proof/Machine/FieldElement.lean ====
section
/-! DEFINITION. The byte functions of unit `gf2_8_multiplier`: bit conversion (rules R110, R111), addition, doubling,
multiplication and exponentiation (rules R80 to R83, R92). -/

namespace Sys2Proof.Machine

/-- `byte_to_bits(b)`: `bits[i] = b[7 - i]`, most significant bit first (R110). -/
def byteToBits (b : Byte) : Vector Bool 8 :=
  #v[b.getLsbD 7, b.getLsbD 6, b.getLsbD 5, b.getLsbD 4, b.getLsbD 3, b.getLsbD 2, b.getLsbD 1, b.getLsbD 0]

/-- `bits_to_byte(bits)`: the weighted sum of `bits[7 - i] * 2^i` over i in 0..7 (R111). -/
def bitsToByte (bits : Vector Bool 8) : Byte :=
  BitVec.ofNat 8 (((List.finRange 8).map fun i => (bits[7 - i.val]).toNat * 2 ^ i.val).sum)

/-- `gf_add8(a, b) = a ^ b` (R81). -/
def gfAdd8 (a b : Byte) : Byte := a ^^^ b

/-- `xtime(a)`: shift left one bit, and fold the bit shifted out back in with the reduction constant (R80). -/
def xtime (a : Byte) : Byte := if a.getLsbD 7 then (a <<< 1) ^^^ Config.red else a <<< 1

/-- `xtime` applied `k` times: multiplication by X^k (R82). -/
def xtimes : Nat → Byte → Byte
  | 0, b => b
  | k + 1, b => xtimes k (xtime b)

/-- `gf_mul8(a, b)` by double-and-add over the scan of `a`: position `i` adds `b` doubled `7 - i` times (R82). -/
def gfMul8 (a b : Byte) : Byte :=
  (List.finRange 8).foldl (fun r i => if (byteToBits a)[i.val] then gfAdd8 r (xtimes (7 - i.val) b) else r) 0x00#8

/-- What POW8 answers for exponent 0 in each mode (R83). -/
def powZero (mode : Config.Pow0Mode) (a : Byte) : Byte :=
  match mode with
  | .legacyA => a
  | .conventionalOne => 0x01#8

/-- `acc <- gf_mul8(acc, a)`, done `k` times (the loop body of R83). -/
def mulTimes : Nat → Byte → Byte → Byte
  | 0, _, acc => acc
  | k + 1, a, acc => mulTimes k a (gfMul8 acc a)

/-- `gf_pow8(a, n)` as R83 writes it, with `n - 1` multiplications. The reference that `gfPow8` is measured against; it is
no definition to evaluate on a large exponent. -/
def gfPow8Loop (a : Byte) (n : Word) : Byte :=
  if n = 0 then powZero Config.pow0Mode a else mulTimes (n.toNat - 1) a a

/-- `gf_pow8(a, n)` in the closed form of R92, which "agrees with rule R83 for every `(a, n)`": for `n >= 1` and nonzero
`a` it is `a^m` with `m = ((n - 1) mod 255) + 1`, so `m - 1` multiplications. DEDUCED, log entry 6. -/
def gfPow8 (a : Byte) (n : Word) : Byte :=
  if n = 0 then powZero Config.pow0Mode a
  else if a = 0 then 0x00#8
  else mulTimes ((n.toNat - 1) % 255) a a

end Sys2Proof.Machine
end

