-- ==== Sys2Proof/Machine/InverseRom.lean ====
section
/-! DEFINITION. Unit `gf2_8_inverse_rom`: the contents of the inverse ROM (rule R44), its read (R43) and the multiplicative
inverse (R84). The ROM is a constant and no state: nothing writes it and reset leaves it alone (R42, R162). -/

namespace Sys2Proof.Machine

/-- Row `0_` of the table of R44: the inverses of 0x01 to 0x0F. -/
def invRomRow0 : List Byte :=
  [0x01#8, 0x8d#8, 0xf6#8, 0xcb#8, 0x52#8, 0x7b#8, 0xd1#8, 0xe8#8,
   0x4f#8, 0x29#8, 0xc0#8, 0xb0#8, 0xe1#8, 0xe5#8, 0xc7#8]

/-- Row `1_` of the table of R44: the inverses of 0x10 to 0x1F. -/
def invRomRow1 : List Byte :=
  [0x74#8, 0xb4#8, 0xaa#8, 0x4b#8, 0x99#8, 0x2b#8, 0x60#8, 0x5f#8,
   0x58#8, 0x3f#8, 0xfd#8, 0xcc#8, 0xff#8, 0x40#8, 0xee#8, 0xb2#8]

/-- Row `2_` of the table of R44: the inverses of 0x20 to 0x2F. -/
def invRomRow2 : List Byte :=
  [0x3a#8, 0x6e#8, 0x5a#8, 0xf1#8, 0x55#8, 0x4d#8, 0xa8#8, 0xc9#8,
   0xc1#8, 0x0a#8, 0x98#8, 0x15#8, 0x30#8, 0x44#8, 0xa2#8, 0xc2#8]

/-- Row `3_` of the table of R44: the inverses of 0x30 to 0x3F. -/
def invRomRow3 : List Byte :=
  [0x2c#8, 0x45#8, 0x92#8, 0x6c#8, 0xf3#8, 0x39#8, 0x66#8, 0x42#8,
   0xf2#8, 0x35#8, 0x20#8, 0x6f#8, 0x77#8, 0xbb#8, 0x59#8, 0x19#8]

/-- Row `4_` of the table of R44: the inverses of 0x40 to 0x4F. -/
def invRomRow4 : List Byte :=
  [0x1d#8, 0xfe#8, 0x37#8, 0x67#8, 0x2d#8, 0x31#8, 0xf5#8, 0x69#8,
   0xa7#8, 0x64#8, 0xab#8, 0x13#8, 0x54#8, 0x25#8, 0xe9#8, 0x09#8]

/-- Row `5_` of the table of R44: the inverses of 0x50 to 0x5F. -/
def invRomRow5 : List Byte :=
  [0xed#8, 0x5c#8, 0x05#8, 0xca#8, 0x4c#8, 0x24#8, 0x87#8, 0xbf#8,
   0x18#8, 0x3e#8, 0x22#8, 0xf0#8, 0x51#8, 0xec#8, 0x61#8, 0x17#8]

/-- Row `6_` of the table of R44: the inverses of 0x60 to 0x6F. -/
def invRomRow6 : List Byte :=
  [0x16#8, 0x5e#8, 0xaf#8, 0xd3#8, 0x49#8, 0xa6#8, 0x36#8, 0x43#8,
   0xf4#8, 0x47#8, 0x91#8, 0xdf#8, 0x33#8, 0x93#8, 0x21#8, 0x3b#8]

/-- Row `7_` of the table of R44: the inverses of 0x70 to 0x7F. -/
def invRomRow7 : List Byte :=
  [0x79#8, 0xb7#8, 0x97#8, 0x85#8, 0x10#8, 0xb5#8, 0xba#8, 0x3c#8,
   0xb6#8, 0x70#8, 0xd0#8, 0x06#8, 0xa1#8, 0xfa#8, 0x81#8, 0x82#8]

/-- Row `8_` of the table of R44: the inverses of 0x80 to 0x8F. -/
def invRomRow8 : List Byte :=
  [0x83#8, 0x7e#8, 0x7f#8, 0x80#8, 0x96#8, 0x73#8, 0xbe#8, 0x56#8,
   0x9b#8, 0x9e#8, 0x95#8, 0xd9#8, 0xf7#8, 0x02#8, 0xb9#8, 0xa4#8]

/-- Row `9_` of the table of R44: the inverses of 0x90 to 0x9F. -/
def invRomRow9 : List Byte :=
  [0xde#8, 0x6a#8, 0x32#8, 0x6d#8, 0xd8#8, 0x8a#8, 0x84#8, 0x72#8,
   0x2a#8, 0x14#8, 0x9f#8, 0x88#8, 0xf9#8, 0xdc#8, 0x89#8, 0x9a#8]

/-- Row `A_` of the table of R44: the inverses of 0xA0 to 0xAF. -/
def invRomRowA : List Byte :=
  [0xfb#8, 0x7c#8, 0x2e#8, 0xc3#8, 0x8f#8, 0xb8#8, 0x65#8, 0x48#8,
   0x26#8, 0xc8#8, 0x12#8, 0x4a#8, 0xce#8, 0xe7#8, 0xd2#8, 0x62#8]

/-- Row `B_` of the table of R44: the inverses of 0xB0 to 0xBF. -/
def invRomRowB : List Byte :=
  [0x0c#8, 0xe0#8, 0x1f#8, 0xef#8, 0x11#8, 0x75#8, 0x78#8, 0x71#8,
   0xa5#8, 0x8e#8, 0x76#8, 0x3d#8, 0xbd#8, 0xbc#8, 0x86#8, 0x57#8]

/-- Row `C_` of the table of R44: the inverses of 0xC0 to 0xCF. -/
def invRomRowC : List Byte :=
  [0x0b#8, 0x28#8, 0x2f#8, 0xa3#8, 0xda#8, 0xd4#8, 0xe4#8, 0x0f#8,
   0xa9#8, 0x27#8, 0x53#8, 0x04#8, 0x1b#8, 0xfc#8, 0xac#8, 0xe6#8]

/-- Row `D_` of the table of R44: the inverses of 0xD0 to 0xDF. -/
def invRomRowD : List Byte :=
  [0x7a#8, 0x07#8, 0xae#8, 0x63#8, 0xc5#8, 0xdb#8, 0xe2#8, 0xea#8,
   0x94#8, 0x8b#8, 0xc4#8, 0xd5#8, 0x9d#8, 0xf8#8, 0x90#8, 0x6b#8]

/-- Row `E_` of the table of R44: the inverses of 0xE0 to 0xEF. -/
def invRomRowE : List Byte :=
  [0xb1#8, 0x0d#8, 0xd6#8, 0xeb#8, 0xc6#8, 0x0e#8, 0xcf#8, 0xad#8,
   0x08#8, 0x4e#8, 0xd7#8, 0xe3#8, 0x5d#8, 0x50#8, 0x1e#8, 0xb3#8]

/-- Row `F_` of the table of R44: the inverses of 0xF0 to 0xFF. -/
def invRomRowF : List Byte :=
  [0x5b#8, 0x23#8, 0x38#8, 0x34#8, 0x68#8, 0x46#8, 0x03#8, 0x8c#8,
   0xdd#8, 0x9c#8, 0x7d#8, 0xa0#8, 0xcd#8, 0x1a#8, 0x41#8, 0x1c#8]

/-- `INV_ROM`, entries 0 to 254 in index order (R44). -/
def invRom : List Byte :=
  invRomRow0 ++ invRomRow1 ++ invRomRow2 ++ invRomRow3 ++ invRomRow4 ++ invRomRow5 ++ invRomRow6 ++ invRomRow7 ++
  invRomRow8 ++ invRomRow9 ++ invRomRowA ++ invRomRowB ++ invRomRowC ++ invRomRowD ++ invRomRowE ++ invRomRowF

/-- The ROM has `ROM_DEPTH` entries (R8, R40). -/
theorem invRom_length : invRom.length = 255 := by simp only [invRom, List.length_append]; rfl

/-- The ROM read `INV_ROM[k]`, k in 0..254: no other index can be formed (R43, R47). -/
def romRead (k : Fin 255) : Byte := invRom[k.val]'(by rw [invRom_length]; exact k.isLt)

/-- The index `a - 1` of a nonzero byte (R43). -/
def romIndex (a : Byte) (h : a ≠ 0) : Fin 255 :=
  ⟨a.toNat - 1, by
    have h0 : a.toNat ≠ 0 := fun e => h (BitVec.eq_of_toNat_eq e)
    have h1 := a.isLt
    omega⟩

/-- `gf_inv8(a)`: 0 for 0, which reads no entry, else `INV_ROM[a - 1]` (R84). -/
def gfInv8 (a : Byte) : Byte := if h : a = 0 then 0x00#8 else romRead (romIndex a h)

end Sys2Proof.Machine
end

