-- ==== Sys2Proof/Machine/ByteOps.lean ====
section
/-! DEFINITION. The meanings of the byte operations ADD8, XTIME8, MUL8, POW8 and INV8 (rules R85 to R89). -/

namespace Sys2Proof.Machine

/-- ADD8 (R85). -/
def execAdd8 (a b : Word) (s : State) : Result := s.respondByte (gfAdd8 (byteOperand a) (byteOperand b))

/-- XTIME8; all of `in_b` is ignored (R86). -/
def execXtime8 (a _b : Word) (s : State) : Result := s.respondByte (xtime (byteOperand a))

/-- MUL8 (R87). -/
def execMul8 (a b : Word) (s : State) : Result := s.respondByte (gfMul8 (byteOperand a) (byteOperand b))

/-- POW8; the exponent is all 32 bits of `in_b` (R88). -/
def execPow8 (a b : Word) (s : State) : Result := s.respondByte (gfPow8 (byteOperand a) b)

/-- INV8; all of `in_b` is ignored (R89). -/
def execInv8 (a _b : Word) (s : State) : Result := s.respondByte (gfInv8 (byteOperand a))

end Sys2Proof.Machine
end

