-- ==== Sys2Proof/Machine/Reserved.lean ====
section
/-! DEFINITION. The meanings of the reserved opcodes 0x7 to 0xF: each is accepted like any command and answers ILLEGAL_OP,
whatever its operands (rules R65, R141). -/

namespace Sys2Proof.Machine

/-- RSVD.7 (R65, R141). -/
def execRsvd7 (_a _b : Word) (s : State) : Result := s.respondError

/-- RSVD.8 (R65, R141). -/
def execRsvd8 (_a _b : Word) (s : State) : Result := s.respondError

/-- RSVD.9 (R65, R141). -/
def execRsvd9 (_a _b : Word) (s : State) : Result := s.respondError

/-- RSVD.A (R65, R141). -/
def execRsvdA (_a _b : Word) (s : State) : Result := s.respondError

/-- RSVD.B (R65, R141). -/
def execRsvdB (_a _b : Word) (s : State) : Result := s.respondError

/-- RSVD.C (R65, R141). -/
def execRsvdC (_a _b : Word) (s : State) : Result := s.respondError

/-- RSVD.D (R65, R141). -/
def execRsvdD (_a _b : Word) (s : State) : Result := s.respondError

/-- RSVD.E (R65, R141). -/
def execRsvdE (_a _b : Word) (s : State) : Result := s.respondError

/-- RSVD.F (R65, R141). -/
def execRsvdF (_a _b : Word) (s : State) : Result := s.respondError

end Sys2Proof.Machine
end

