-- ==== Sys2Proof/Machine/FieldVector.lean ====
section
/-! DEFINITION. The word functions of unit `circulant_diffuse_word`: element-wise addition and circulant multiplication
(rules R120 to R122). -/

namespace Sys2Proof.Machine

/-- `gf_add32(u, v)`, element by element (R120). -/
def gfAdd32 (u v : Word) : Word :=
  combineBe (gfAdd8 (elem 0 u) (elem 0 v)) (gfAdd8 (elem 1 u) (elem 1 v)) (gfAdd8 (elem 2 u) (elem 2 v))
    (gfAdd8 (elem 3 u) (elem 3 v))

/-- The circulant matrix of `u`, row `j` and column `i`: `M(u)[j][i] = u_((i - j) mod 4)` (R121). Subtraction of `Fin 4` is
modulo 4. -/
def circulant (u : Word) (j i : Fin 4) : Byte := elem (i - j) u

/-- Output element `i` of the circulant product: the field sum over j of `M(u)[j][i] . v_j`, from `o_i <- 0x00` on (R122). -/
def cmulElem (u v : Word) (i : Fin 4) : Byte :=
  (List.finRange 4).foldl (fun o j => gfAdd8 o (gfMul8 (circulant u j i) (elem j v))) 0x00#8

/-- `gf_cmul32(u, v)` (R122). -/
def gfCmul32 (u v : Word) : Word := combineBe (cmulElem u v 0) (cmulElem u v 1) (cmulElem u v 2) (cmulElem u v 3)

end Sys2Proof.Machine
end

