-- ==== Sys2Proof/Machine/WordOps.lean ====
section
/-! DEFINITION. The meanings of the word operations ADD32 and CMUL32 (rules R123, R124). -/

namespace Sys2Proof.Machine

/-- ADD32 (R123). -/
def execAdd32 (a b : Word) (s : State) : Result := s.respondWord (gfAdd32 a b)

/-- CMUL32: `in_a` gives the matrix, `in_b` the column (R124). -/
def execCmul32 (a b : Word) (s : State) : Result := s.respondWord (gfCmul32 a b)

end Sys2Proof.Machine
end

