-- ==== Sys2Proof/Machine/Dispatch.lean ====
section
/-! DEFINITION. The dispatch: one arm per command, each one call of its meaning (rules R61, R67). -/

namespace Sys2Proof.Machine

def exec (i : Instr) (s : State) : Host.Outcome State Fault Refusal :=
  match i with
  | .add8 a b => Sys2Proof.Machine.execAdd8 a b s
  | .xtime8 a b => Sys2Proof.Machine.execXtime8 a b s
  | .mul8 a b => Sys2Proof.Machine.execMul8 a b s
  | .pow8 a b => Sys2Proof.Machine.execPow8 a b s
  | .inv8 a b => Sys2Proof.Machine.execInv8 a b s
  | .add32 a b => Sys2Proof.Machine.execAdd32 a b s
  | .cmul32 a b => Sys2Proof.Machine.execCmul32 a b s
  | .rsvd7 a b => Sys2Proof.Machine.execRsvd7 a b s
  | .rsvd8 a b => Sys2Proof.Machine.execRsvd8 a b s
  | .rsvd9 a b => Sys2Proof.Machine.execRsvd9 a b s
  | .rsvdA a b => Sys2Proof.Machine.execRsvdA a b s
  | .rsvdB a b => Sys2Proof.Machine.execRsvdB a b s
  | .rsvdC a b => Sys2Proof.Machine.execRsvdC a b s
  | .rsvdD a b => Sys2Proof.Machine.execRsvdD a b s
  | .rsvdE a b => Sys2Proof.Machine.execRsvdE a b s
  | .rsvdF a b => Sys2Proof.Machine.execRsvdF a b s

end Sys2Proof.Machine
end

