-- ==== Sys2Proof/Machine/Clock.lean ====
section
/-! DEFINITION. One rising edge of `clk`: the three cases of rule R34, on the ports as sampled, and the placing of host moves. -/

namespace Sys2Proof.Machine

/-- The clock-edge step of R34. Reset has priority: a command presented with `rst = 1` leaves no trace (R143, R160).
`in_ready` is constant 1, so a command presented otherwise is accepted (R27, R166). -/
def clockEdge (p : PortSample) (s : State) : Result :=
  if p.rst then s.resetEdge
  else if p.inValid then exec (decodeBundle p.bundle) s
  else s.idleEdge

/-- What the host drives at the next edge: its next listed move, or, where none is listed, nothing (log entry 2). -/
def State.nextMove (s : State) : HostMove := s.host.headD HostMove.idle

/-- The next edge: the host's next move is sampled and used up. -/
def nextEdge (s : State) : Result := clockEdge (s.nextMove.sample s) { s with host := s.host.tail }

/-- The host move that presents the command of a bundle (R60, R62). -/
def HostMove.ofBundle (w : Bundle) : HostMove := HostMove.present (bundleOp w) (bundleA w) (bundleB w)

/-- `s` with the command of a bundle presented at the next edge, in place of what was to be driven there; the edges after
it stay as they are. -/
def State.presentNext (s : State) (w : Bundle) : State := { s with host := HostMove.ofBundle w :: s.host.tail }

end Sys2Proof.Machine
end

