-- ==== Sys2Proof/Machine/Step.lean ====
section
/-! DEFINITION. The step of the machine: one rising edge (rule R34). -/

namespace Sys2Proof.Machine

/-- One step is one rising edge of `clk` with the host's next move on the ports (R34, R36). -/
def step (s : State) : Host.Outcome State Fault Refusal := nextEdge s

/-- `s` with the command that spec/opcode_table.json numbers `w` presented at the next edge (log entries 4 and 5). -/
def State.withFetchWord (s : State) (nbits w : Nat) : State := s.presentNext (tableBundle nbits w)

end Sys2Proof.Machine
end

