-- ==== Sys2Proof/Machine/Transaction.lean ====
section
/-! DEFINITION. The transaction view of the block (rules R35, R67, R172): commands to responses, with no edges, and what a
host reads off the edges. Rule R35 says that both views agree; Certificates/Slice0/Obligations.lean states it. -/

namespace Sys2Proof.Machine

/-- The response to one command (R13, R34): its data and its error bit. -/
structure Response where
  data : Word
  err : Bool
deriving DecidableEq, Repr

/-- `Execute`, the dispatch function of R67, a function of the three command fields alone. -/
def execute (op : Opcode) (a b : Word) : Response :=
  match op.getLsbD 3, op.getLsbD 2, op.getLsbD 1, op.getLsbD 0 with
  | false, false, false, false => ⟨(gfAdd8 (byteOperand a) (byteOperand b)).setWidth 32, false⟩
  | false, false, false, true => ⟨(xtime (byteOperand a)).setWidth 32, false⟩
  | false, false, true, false => ⟨(gfMul8 (byteOperand a) (byteOperand b)).setWidth 32, false⟩
  | false, false, true, true => ⟨(gfPow8 (byteOperand a) b).setWidth 32, false⟩
  | false, true, false, false => ⟨(gfInv8 (byteOperand a)).setWidth 32, false⟩
  | false, true, false, true => ⟨gfAdd32 a b, false⟩
  | false, true, true, false => ⟨gfCmul32 a b, false⟩
  | false, true, true, true => ⟨0x00000000#32, true⟩
  | true, false, false, false => ⟨0x00000000#32, true⟩
  | true, false, false, true => ⟨0x00000000#32, true⟩
  | true, false, true, false => ⟨0x00000000#32, true⟩
  | true, false, true, true => ⟨0x00000000#32, true⟩
  | true, true, false, false => ⟨0x00000000#32, true⟩
  | true, true, false, true => ⟨0x00000000#32, true⟩
  | true, true, true, false => ⟨0x00000000#32, true⟩
  | true, true, true, true => ⟨0x00000000#32, true⟩

/-- The host move of a listing line; a left-out operand is driven as 0 (R68). -/
def lineMove (l : Line) : HostMove :=
  match l with
  | .command op a b => HostMove.present op (a.getD 0) (b.getD 0)
  | .idle => HostMove.idle
  | .reset => HostMove.reset

/-- The response of a listing line: a command has one, an idle or reset edge has none (R34, R35). -/
def lineResponse (l : Line) : Option Response :=
  match l with
  | .command op a b => some (execute op (a.getD 0) (b.getD 0))
  | .idle => none
  | .reset => none

/-- `(RES, ES)` after one listing line, in the transaction view (R34, R160). -/
def afterLine (l : Line) (r : Word × Bool) : Word × Bool :=
  match l with
  | .command op a b => ((execute op (a.getD 0) (b.getD 0)).data, r.2 || (execute op (a.getD 0) (b.getD 0)).err)
  | .idle => r
  | .reset => (0, false)

/-- `(RES, ES)` after every line of a listing that starts at `r`, in the transaction view (R34, R160). -/
def afterLines : List Line → Word × Bool → Word × Bool
  | [], r => r
  | l :: p, r => afterLines p (afterLine l r)

/-- A line that presents a command (R68). -/
def isCommand (l : Line) : Bool :=
  match l with
  | .command _ _ _ => true
  | .idle => false
  | .reset => false

/-- The lines of a host program up to its end: "over at the end of the cycle that shows the response to its last command"
(R172), so up to and including the last command line. Lines after it are later edges, of which R172 says nothing. -/
def untilLastCommand : List Line → List Line
  | [] => []
  | l :: p => if isCommand l || p.any isCommand then l :: untilLastCommand p else []

/-- What R172 lets be observed of a host program: `(RES, ES)` at its end, and the `(out_data, out_err)` of the cycles with
`out_valid = 1`, in order. -/
structure ProgramEnd where
  res : Word
  es : Bool
  responses : List Response
deriving DecidableEq, Repr

/-- The end of a host program that starts at `r = (RES, ES)`, in the transaction view (R172). DESIGN CHOICE, log entry 12: a
program with no command line has no last command and so no end by R172, and the model answers `none` for it. -/
def programEnd (p : List Line) (r : Word × Bool) : Option ProgramEnd :=
  if p.any isCommand then
    some
      { res := (afterLines (untilLastCommand p) r).1
        es := (afterLines (untilLastCommand p) r).2
        responses := p.filterMap lineResponse }
  else none

/-- `s` with the host about to drive the lines of a program, one per edge (R68). -/
def State.load (s : State) (p : List Line) : State := { s with host := p.map lineMove }

/-- `n` rising edges, as far as they have a next state (R34). -/
def edges : Nat → State → Result
  | 0, s => .next s
  | n + 1, s =>
    match step s with
    | .next t => edges n t
    | .fault r => .fault r
    | .refused r => .refused r

/-- The response a host reads in a cycle: there is one when `out_valid = 1` (R35, R172). -/
def State.response (s : State) : Option Response := if s.outValid = some true then some ⟨s.res, s.oe⟩ else none

/-- The responses a host reads over `n` edges, sampling `out_valid` in every cycle (R167, R172). -/
def observe : Nat → State → List Response
  | 0, _ => []
  | n + 1, s =>
    match step s with
    | .next t => t.response.toList ++ observe n t
    | .fault _ => []
    | .refused _ => []

end Sys2Proof.Machine
end

