-- ==== Sys2Proof/Machine/Listing.lean ====
section
/-! DEFINITION. The written form of commands (rule R68): mnemonics and the bundle text `op:aaaaaaaa:bbbbbbbb`. -/

namespace Sys2Proof.Machine

/-- The mnemonic of a command (R61, R68). -/
def mnemonic : Instr → String
  | .add8 _ _ => "ADD8"
  | .xtime8 _ _ => "XTIME8"
  | .mul8 _ _ => "MUL8"
  | .pow8 _ _ => "POW8"
  | .inv8 _ _ => "INV8"
  | .add32 _ _ => "ADD32"
  | .cmul32 _ _ => "CMUL32"
  | .rsvd7 _ _ => "RSVD.7"
  | .rsvd8 _ _ => "RSVD.8"
  | .rsvd9 _ _ => "RSVD.9"
  | .rsvdA _ _ => "RSVD.A"
  | .rsvdB _ _ => "RSVD.B"
  | .rsvdC _ _ => "RSVD.C"
  | .rsvdD _ _ => "RSVD.D"
  | .rsvdE _ _ => "RSVD.E"
  | .rsvdF _ _ => "RSVD.F"

/-- The sixteen hexadecimal digits, in the letters of operands (R12). -/
def hexDigits : List Char := ['0', '1', '2', '3', '4', '5', '6', '7', '8', '9', 'a', 'b', 'c', 'd', 'e', 'f']

/-- Digit `k` of a word in hexadecimal, digit 0 the least significant. -/
def hexDigit (w : Word) (k : Nat) : Char := hexDigits.getD (w.extractLsb' (4 * k) 4).toNat '0'

/-- The eight hexadecimal digits of a word, most significant first (R12). -/
def hexWord (w : Word) : List Char := [7, 6, 5, 4, 3, 2, 1, 0].map (hexDigit w)

/-- `op:aaaaaaaa:bbbbbbbb` (R68); the opcode's digit is a capital, as in RSVD.A. -/
def bundleText (i : Instr) : List Char :=
  (hexDigit (i.opcode.setWidth 32) 0).toUpper :: ':' :: (hexWord i.portA ++ ':' :: hexWord i.portB)

end Sys2Proof.Machine
end

