-- ==== Sys2Proof/Machine/System.lean ====
section
/-! DEFINITION. Several blocks side by side (rules R52, R148): each has its own registers and its own host, and they share
only the constant ROM. They have no identifiers and no messages: a position in the list is the modeller's name for one. -/

namespace Sys2Proof.Machine

/-- Several blocks. -/
abbrev System := List State

/-- One edge of block `k` of a system; a position that holds no block changes nothing (R52, log entry 10). -/
def stepInstance (k : Nat) (blocks : System) : Host.Outcome System Fault Refusal :=
  match blocks[k]? with
  | none => .next blocks
  | some s =>
    match step s with
    | .next t => .next (blocks.set k t)
    | .fault r => .fault r
    | .refused r => .refused r

end Sys2Proof.Machine
end

