-- ==== Sys2Proof/Safety.lean ====
section
/-! DEFINITION. The terms in which claims are stated: legal commands, what a host move presents, the invariant of the
registers, and the polynomial that a byte stands for (rules R2, R46). -/

namespace Sys2Proof.Machine

/-- A command whose opcode selects an operation: 0x0 to 0x6 (R61, R65). -/
def legal : Instr → Bool
  | .add8 _ _ => true
  | .xtime8 _ _ => true
  | .mul8 _ _ => true
  | .pow8 _ _ => true
  | .inv8 _ _ => true
  | .add32 _ _ => true
  | .cmul32 _ _ => true
  | .rsvd7 _ _ => false
  | .rsvd8 _ _ => false
  | .rsvd9 _ _ => false
  | .rsvdA _ _ => false
  | .rsvdB _ _ => false
  | .rsvdC _ _ => false
  | .rsvdD _ _ => false
  | .rsvdE _ _ => false
  | .rsvdF _ _ => false

/-- A command that delivers a zero-extended byte: opcodes 0x0 to 0x4 (R61, R64). -/
def deliversByte : Instr → Bool
  | .add8 _ _ => true
  | .xtime8 _ _ => true
  | .mul8 _ _ => true
  | .pow8 _ _ => true
  | .inv8 _ _ => true
  | .add32 _ _ => false
  | .cmul32 _ _ => false
  | .rsvd7 _ _ => false
  | .rsvd8 _ _ => false
  | .rsvd9 _ _ => false
  | .rsvdA _ _ => false
  | .rsvdB _ _ => false
  | .rsvdC _ _ => false
  | .rsvdD _ _ => false
  | .rsvdE _ _ => false
  | .rsvdF _ _ => false

/-- A move whose edge accepts a command: `rst = 0` and `in_valid = 1` (R13). -/
def HostMove.isAccepted (m : HostMove) : Bool := !m.rst && m.inValid

/-- A move whose edge accepts a command with a reserved opcode (R65). -/
def HostMove.isReserved (m : HostMove) : Bool := m.isAccepted && decide (7 ≤ m.inOp.toNat)

/-- A move with `rst = 0` and `in_valid = 0`. -/
def HostMove.isIdle (m : HostMove) : Bool := !m.rst && !m.inValid

/-- The invariant of the registers after the first reset: an error bit is shown only with a response (R23), and then the
response is the error response and the sticky flag is set (R141). -/
abbrev State.Inv (s : State) : Prop := s.resetDone = true → s.oe = true → s.ov = true ∧ s.es = true ∧ s.res = 0

/-- The product written from the coefficients: the XOR, over every k with `a[k] = 1`, of `b` doubled `k` times (R82). -/
def mulByCoefficients (a b : Byte) : Byte :=
  (List.range 8).foldl (fun r k => if a.getLsbD k then r ^^^ xtimes k b else r) 0

/-- The defining polynomial X^8 + X^4 + X^3 + X + 1 over Z2 (R2). -/
noncomputable def fieldPoly : Polynomial (ZMod 2) :=
  Polynomial.X ^ 8 + Polynomial.X ^ 4 + Polynomial.X ^ 3 + Polynomial.X + 1

/-- The polynomial a byte stands for: the sum over k of `a[k] * X^k` (R46). -/
noncomputable def bytePoly (a : Byte) : Polynomial (ZMod 2) :=
  ∑ k ∈ Finset.range 8, if a.getLsbD k then Polynomial.X ^ k else 0

end Sys2Proof.Machine
end

