-- ==== Sys2Proof/Certificates/Slice0/Obligations.lean ====
section
/-! DEFINITION. The statements about the model, for the provers. Each docstring names the rule of the spec it rests on. -/

open Sys2Proof Sys2Proof.Machine

/-- For every command i, all 16 constructors and every value of both operand ports, decodeBundle (encode i) = i.
(30_encoding.md R60, R61.) -/
def Obligations.DecodeReadsBackEncode : Prop :=
  ∀ i : Instr, decodeBundle (encode i) = i

/-- For every 68-bit bundle w the decoded command is well-formed, has the opcode in bits 67:64 of w and the operand
ports in bits 63:32 and 31:0, and encodes to w; and two commands of one bundle's opcode and ports are the same
command, so each of the 16 opcodes selects exactly one row. (R66, an inference the spec marks as its own, from R61 and
R63.) (R60, R61, R63.) -/
def Obligations.DecodingIsTotalAndExact : Prop :=
  ∀ w : Bundle,
    (decodeBundle w).wf = true ∧
    (decodeBundle w).opcode = w.extractLsb' 64 4 ∧
    (decodeBundle w).portA = w.extractLsb' 32 32 ∧
    (decodeBundle w).portB = w.extractLsb' 0 32 ∧
    encode (decodeBundle w) = w ∧
    ∀ i : Instr, i.opcode = w.extractLsb' 64 4 → i.portA = w.extractLsb' 32 32 → i.portB = w.extractLsb' 0 32 →
      i = decodeBundle w

/-- Nine bundles of 95_test_vectors.md, written op:aaaaaaaa:bbbbbbbb, decode to ADD8, XTIME8, MUL8, POW8, INV8, ADD32,
CMUL32, RSVD.9 and RSVD.F with the operands listed. (R60, R61, 95_test_vectors.md section 2.) -/
def Obligations.WrittenOutBundlesDecode : Prop :=
  decodeBundle 0x0000000a400000039#68 = .add8 0x000000A4#32 0x00000039#32 ∧
  decodeBundle 0x1abcdef80ffffffff#68 = .xtime8 0xABCDEF80#32 0xFFFFFFFF#32 ∧
  decodeBundle 0x20000005700000013#68 = .mul8 0x00000057#32 0x00000013#32 ∧
  decodeBundle 0x30000000200000008#68 = .pow8 0x00000002#32 0x00000008#32 ∧
  decodeBundle 0x40000003100000000#68 = .inv8 0x00000031#32 0x00000000#32 ∧
  decodeBundle 0x5cd435f1755de3faa#68 = .add32 0xCD435F17#32 0x55DE3FAA#32 ∧
  decodeBundle 0x602010103db135345#68 = .cmul32 0x02010103#32 0xDB135345#32 ∧
  decodeBundle 0x9123456789abcdef0#68 = .rsvd9 0x12345678#32 0x9ABCDEF0#32 ∧
  decodeBundle 0xfffffffffffffffff#68 = .rsvdF 0xFFFFFFFF#32 0xFFFFFFFF#32

/-- For every well-formed command line of a listing, whatever values the host drives for the operands the line leaves
out, the response is the line's response, in which they are driven as 0. (R62, R63, R68.) -/
def Obligations.OmittedOperandsNeverMatter : Prop :=
  ∀ (op : Opcode) (a b : Option Word) (a' b' : Word), (Line.command op a b).wf = true →
    some (execute op (a.getD a') (b.getD b')) = lineResponse (.command op a b)

/-- In State.reset RES is 0x00000000 and OV, OE and ES are 0, so the output ports show in_ready 1, out_valid 0,
out_data 0, out_err 0 and err_sticky 0. (10_state.md R32, R27.) -/
def Obligations.ResetLeavesClearedRegisters : Prop :=
  State.reset.res = 0x00000000#32 ∧ State.reset.ov = false ∧ State.reset.oe = false ∧ State.reset.es = false ∧
  State.reset.inReady = true ∧ State.reset.outValid = some false ∧ State.reset.outData = some 0x00000000#32 ∧
  State.reset.outErr = some false ∧ State.reset.errSticky = some false

/-- For every state, power-up states included, whose host drives one or more moves with rst = 1 and then the moves
rest, that many edges leave State.reset with rest still to be driven: any command presented at those edges leaves no
trace. (R161, an inference the spec marks as its own, from R160.) (R160, R32.) -/
def Obligations.OneResetEdgeResetsFully : Prop :=
  ∀ (s : State) (ms rest : List HostMove), ms ≠ [] → (∀ m ∈ ms, m.rst = true) → s.host = ms ++ rest →
    edges ms.length s = .next { State.reset with host := rest }

/-- At an edge with rst = 1, whatever in_valid, in_op, in_a and in_b are and whatever the state is, the next state has
RES, OV, OE and ES zero and the move used up, and reset has been applied: the command has no response and sets no
flag. A step is one rising edge, so nothing happens between edges. (R160.) -/
def Obligations.ResetWinsOverCommand : Prop :=
  ∀ (s : State) (m : HostMove) (rest : List HostMove), s.host = m :: rest → m.rst = true →
    step s = .next { res := 0, ov := false, oe := false, es := false, resetDone := true, host := rest }

/-- The model's choice, log entry 3, of the treatment 'stuck': in every state in which no reset edge has happened,
every command stops with noResetYet, every step whose move has rst = 0 (one with no move listed too, log entry 2)
stops with noResetYet, and no output but in_ready has a value. (R33, R171, 93_implementation_defined.md section 2
(stuck).) -/
def Obligations.NoStepBeforeFirstReset : Prop :=
  ∀ s : State, s.resetDone = false →
    (∀ i : Instr, exec i s = .fault .noResetYet) ∧
    (s.nextMove.rst = false → step s = .fault .noResetYet) ∧
    s.outValid = none ∧ s.outData = none ∧ s.outErr = none ∧ s.errSticky = none ∧ s.inReady = true

/-- For every move the host drives, with operands resolved on the ports, after a first reset or itself a reset: rst =
1 clears RES, OV, OE and ES; else in_valid = 1 gives RES, OV, OE and ES the values of Execute of the three command
ports; else OV and OE become 0 and RES and ES keep their values. The move is used up in each case. Execute is the
total function of R67 of (in_op, in_a, in_b) alone. (R34.) -/
def Obligations.EdgePerformsOneOfThreeCases : Prop :=
  ∀ (s : State) (m : HostMove) (rest : List HostMove), m.rst = true ∨ s.resetDone = true → s.host = m :: rest →
    step s =
      if m.rst then
        .next { s with res := 0x00000000#32, ov := false, oe := false, es := false, resetDone := true, host := rest }
      else if m.inValid then
        .next { s with
          res := (execute m.inOp (m.inA.at s) (m.inB.at s)).data
          ov := true
          oe := (execute m.inOp (m.inA.at s) (m.inB.at s)).err
          es := s.es || (execute m.inOp (m.inA.at s) (m.inB.at s)).err
          host := rest }
      else .next { s with ov := false, oe := false, host := rest }

/-- When the host's next move has rst = 0 and in_valid = 1, the step is exec of the command that decodeBundle reads
from the three command ports, at the state with that move used up; the decoded command is well-formed. The step adds
nothing else. (R34, R60, R67.) -/
def Obligations.StepRunsDecodedCommand : Prop :=
  ∀ (s : State) (m : HostMove) (rest : List HostMove), s.host = m :: rest → m.rst = false → m.inValid = true →
    (decodeBundle (bundleOf m.inOp (m.inA.at s) (m.inB.at s))).wf = true ∧
    step s = exec (decodeBundle (bundleOf m.inOp (m.inA.at s) (m.inB.at s))) { s with host := rest }

/-- The model's choices, log entry 4 (how a command is placed and comes to run) and log entry 5 (the numbering of the
word): for every state and every word in the opcode table's numbering, decodeTableWord answers a command, and the next
step after withFetchWord is exec of that command with the later moves of the host as they were. (10_state.md R36,
spec/opcode_table.json, notes/assumptions/4.md, notes/assumptions/5.md.) -/
def Obligations.PlacedWordRunsNext : Prop :=
  ∀ (s : State) (nbits w : Nat), ∃ i : Instr, decodeTableWord nbits w = some i ∧
    step (s.withFetchWord nbits w) = exec i { s with host := s.host.tail }

/-- After a first reset, one or more moves with rst = 0 and in_valid = 0 leave RES and ES as they were and OV and OE
0. (R22, R23, R34.) -/
def Obligations.IdleEdgesKeepResult : Prop :=
  ∀ (s : State) (ms rest : List HostMove), s.resetDone = true → ms ≠ [] → (∀ m ∈ ms, m.isIdle = true) →
    s.host = ms ++ rest → edges ms.length s = .next { s with ov := false, oe := false, host := rest }

/-- The model's choice, log entry 2: after a first reset, with no move listed, every number of edges from 1 on leaves
RES and ES as they were and OV and OE 0. (R34, R36.) -/
def Obligations.EdgesPastLastMoveAreIdle : Prop :=
  ∀ (s : State) (n : Nat), s.resetDone = true → s.host = [] →
    edges (n + 1) s = .next { s with ov := false, oe := false }

/-- For every move the host drives, whenever the step gives a next state, OV is 1 in it exactly when the edge accepted
a command, OE is 1 in it exactly when the edge accepted a command with a reserved opcode, so OE = 1 implies OV = 1,
and out_valid and out_err show the two. (R22, R23.) -/
def Obligations.OutputValidAndErrorArePulses : Prop :=
  ∀ (s t : State) (m : HostMove) (rest : List HostMove), s.host = m :: rest → step s = .next t →
    (t.ov = true ↔ m.isAccepted = true) ∧ (t.oe = true ↔ m.isReserved = true) ∧ (t.oe = true → t.ov = true) ∧
    t.outValid = some t.ov ∧ t.outErr = some t.oe

/-- For every move the host drives, whenever the step gives a next state, ES is 1 in it exactly when the edge was no
reset edge and either ES was 1 before or the edge accepted a command with a reserved opcode; err_sticky shows it.
(R24.) -/
def Obligations.StickyErrorClearedOnlyByReset : Prop :=
  ∀ (s t : State) (m : HostMove) (rest : List HostMove), s.host = m :: rest → step s = .next t →
    (t.es = true ↔ m.rst = false ∧ (s.es = true ∨ m.isReserved = true)) ∧ t.errSticky = some t.es

/-- For every move the host drives, whenever the step gives a next state at an edge that neither resets nor accepts a
command, RES is as before; at a reset edge it is 0; and out_data shows it. (R21, R34.) -/
def Obligations.ResultWrittenOnlyByCommandOrReset : Prop :=
  ∀ (s t : State) (m : HostMove) (rest : List HostMove), s.host = m :: rest → step s = .next t →
    (m.rst = false → m.isAccepted = false → t.res = s.res) ∧ (m.rst = true → t.res = 0x00000000#32) ∧
    t.outData = some t.res

/-- For every byte b and every i in 0..7, bits[i] = b[7 - i]; so bits[0] = b[7] and bits[7] = b[0]. (R110.) -/
def Obligations.BitsOfByteMostSignificantFirst : Prop :=
  ∀ b : Byte, (∀ (i : Nat) (h : i < 8), (byteToBits b)[i] = b.getLsbD (7 - i)) ∧
    (byteToBits b)[0] = b.getLsbD 7 ∧ (byteToBits b)[7] = b.getLsbD 0

/-- For every byte b, bitsToByte (byteToBits b) = b; and for every sequence of 8 bits, byteToBits (bitsToByte bits) =
bits. (R112, an inference the spec marks as its own, from R110 and R111.) (R110, R111.) -/
def Obligations.BitConversionRoundTrip : Prop :=
  (∀ b : Byte, bitsToByte (byteToBits b) = b) ∧ ∀ bits : Vector Bool 8, byteToBits (bitsToByte bits) = bits

/-- For all bytes a and b, gfMul8 a b, written by the scan of R82 in which position i carries a[7 - i] and is weighted
by 7 - i doublings, equals the XOR over every k in 0..7 with a[k] = 1 of b doubled k times; and position i carries bit
a[7 - i]. (R113, an inference the spec marks as its own, from R110 and R82.) (R82, R110.) -/
def Obligations.ScanOrderNeverChangesProduct : Prop :=
  ∀ a b : Byte, (∀ (i : Nat) (h : i < 8), (byteToBits a)[i] = a.getLsbD (7 - i)) ∧
    gfMul8 a b = mulByCoefficients a b

/-- For all bytes a and b, the defining polynomial divides the product of the polynomials of a and b minus the
polynomial of gfMul8 a b; distinct bytes stand for polynomials that are distinct modulo it; and the reduction constant
is the low eight bits of the 9-bit value 0x11B. (R2, R46, R80, R82.) -/
def Obligations.ProductIsPolynomialProductModP : Prop :=
  (∀ a b : Byte, fieldPoly ∣ bytePoly a * bytePoly b - bytePoly (gfMul8 a b)) ∧
  (∀ a b : Byte, fieldPoly ∣ bytePoly a - bytePoly b → a = b) ∧
  Config.poly = 0x11B#9 ∧ Config.red = 0x1B#8

/-- For all bytes: gfAdd8 and gfMul8 give bytes in 0..255, gfAdd8 a 0 = a, gfAdd8 a a = 0, gfAdd8 and gfMul8 are
commutative, and gfAdd8 is associative. (R90.) -/
def Obligations.ByteFunctionLaws : Prop :=
  ∀ a b c : Byte, (gfAdd8 a b).toNat ≤ 255 ∧ (gfMul8 a b).toNat ≤ 255 ∧ gfAdd8 a 0 = a ∧ gfAdd8 a a = 0 ∧
    gfAdd8 a b = gfAdd8 b a ∧ gfMul8 a b = gfMul8 b a ∧ gfAdd8 (gfAdd8 a b) c = gfAdd8 a (gfAdd8 b c)

/-- The bytes are a commutative group under gfAdd8 (associative, commutative, identity 0x00, every byte its own
inverse); gfMul8 is associative, commutative and distributes over gfAdd8 on both sides, with identity 0x01 different
from 0x00; and every nonzero byte has exactly one multiplicative inverse, which gfInv8 gives. (R2, R13, R81, R82,
R84.) -/
def Obligations.BytesFormField : Prop :=
  (0x00#8 : Byte) ≠ 0x01#8 ∧
  ∀ a b c : Byte,
    gfAdd8 (gfAdd8 a b) c = gfAdd8 a (gfAdd8 b c) ∧ gfAdd8 a b = gfAdd8 b a ∧
    gfAdd8 0x00#8 a = a ∧ gfAdd8 a 0x00#8 = a ∧ gfAdd8 a a = 0x00#8 ∧
    gfMul8 (gfMul8 a b) c = gfMul8 a (gfMul8 b c) ∧ gfMul8 a b = gfMul8 b a ∧
    gfMul8 0x01#8 a = a ∧ gfMul8 a 0x01#8 = a ∧
    gfMul8 a (gfAdd8 b c) = gfAdd8 (gfMul8 a b) (gfMul8 a c) ∧
    gfMul8 (gfAdd8 a b) c = gfAdd8 (gfMul8 a c) (gfMul8 b c) ∧
    (a ≠ 0 → (gfMul8 a b = 0x01#8 ↔ b = gfInv8 a))

/-- For every nonzero byte a, gfMul8 a (gfInv8 a) = 0x01; gfMul8 0 (gfInv8 0) = 0; and gfInv8 (gfInv8 a) = a for every
a, zero too. (R91, an inference the spec marks as its own, from R84 and R41.) (R82, R84.) -/
def Obligations.InverseLaw : Prop :=
  (∀ a : Byte, a ≠ 0 → gfMul8 a (gfInv8 a) = 0x01#8) ∧ gfMul8 0 (gfInv8 0) = 0x00#8 ∧
  ∀ a : Byte, gfInv8 (gfInv8 a) = a

/-- For every v in 1..255 and every byte b, gfMul8 v b = 0x01 exactly when b is the ROM entry at index v - 1; no entry
is 0, no two entries are equal, and every nonzero byte is an entry. (R41, an inference the spec marks as its own, from
R82.) (R25, R82, R43.) -/
def Obligations.InverseRomContentsRule : Prop :=
  (∀ (k : Fin 255) (b : Byte), gfMul8 (BitVec.ofNat 8 (k.val + 1)) b = 0x01#8 ↔ b = romRead k) ∧
  (∀ k : Fin 255, romRead k ≠ 0) ∧ (∀ k k' : Fin 255, romRead k = romRead k' → k = k') ∧
  ∀ b : Byte, b ≠ 0 → ∃ k : Fin 255, romRead k = b

/-- The ROM has 255 entries, their sum is 32640, and the five sample entries of R44 are as listed. (20_memory.md R44,
R8, R40.) -/
def Obligations.InverseRomTableChecks : Prop :=
  invRom.length = Config.romDepth ∧ (invRom.map BitVec.toNat).sum = 32640 ∧
  romRead 0x00 = 0x01#8 ∧ romRead 0x01 = 0x8D#8 ∧ romRead 0x30 = 0x45#8 ∧ romRead 0x52 = 0xCA#8 ∧
  romRead 0xFE = 0x1C#8

/-- For every byte a and every 32-bit exponent n: gfPow8 a n, the form the model evaluates, equals gfPow8Loop a n, the
loop of R83; for n at least 1 and a = 0 it is 0; for n at least 1 and a nonzero it is the loop's value at exponent ((n
- 1) mod 255) + 1, which lies in 1..255; a^255 = 1 for a nonzero; and exponent 0 gives a. (The form is R92, an
inference the spec marks as its own, from R83 and R82; that the model evaluates it is log entry 6.) (R83, R82.) -/
def Obligations.PowerClosedFormAgreesWithLoop : Prop :=
  ∀ (a : Byte) (n : Word),
    gfPow8 a n = gfPow8Loop a n ∧
    (n ≠ 0 → a = 0 → gfPow8Loop a n = 0x00#8) ∧
    (n ≠ 0 → a ≠ 0 → gfPow8Loop a n = gfPow8Loop a (BitVec.ofNat 32 ((n.toNat - 1) % 255 + 1)) ∧
      1 ≤ (n.toNat - 1) % 255 + 1 ∧ (n.toNat - 1) % 255 + 1 ≤ 255) ∧
    (a ≠ 0 → gfPow8Loop a 255 = 0x01#8) ∧
    gfPow8 a 0 = a

/-- For every word w, e_0 is w[31:24], e_1 is w[23:16], e_2 is w[15:8], e_3 is w[7:0] and combine_be of them is w; and
for every four bytes, the elements of combine_be of them are those bytes. (R45.) -/
def Obligations.WordIsTupleOfElements : Prop :=
  (∀ w : Word, elem 0 w = w.extractLsb' 24 8 ∧ elem 1 w = w.extractLsb' 16 8 ∧ elem 2 w = w.extractLsb' 8 8 ∧
    elem 3 w = w.extractLsb' 0 8 ∧ combineBe (elem 0 w) (elem 1 w) (elem 2 w) (elem 3 w) = w) ∧
  ∀ e0 e1 e2 e3 : Byte, elem 0 (combineBe e0 e1 e2 e3) = e0 ∧ elem 1 (combineBe e0 e1 e2 e3) = e1 ∧
    elem 2 (combineBe e0 e1 e2 e3) = e2 ∧ elem 3 (combineBe e0 e1 e2 e3) = e3

/-- For all words, element k of gfAdd32 u v is gfAdd8 of the elements k, and gfAdd32 u v = u XOR v. (R120.) -/
def Obligations.WordAdditionIsXor : Prop :=
  ∀ u v : Word, (∀ k : Fin 4, elem k (gfAdd32 u v) = gfAdd8 (elem k u) (elem k v)) ∧ gfAdd32 u v = u ^^^ v

/-- For every word u, row 0 is (u_0, u_1, u_2, u_3), row 1 is (u_3, u_0, u_1, u_2), row 2 is (u_2, u_3, u_0, u_1), row
3 is (u_1, u_2, u_3, u_0), and every entry is u_((i - j) mod 4). (R121.) -/
def Obligations.CirculantRowsRotateRight : Prop :=
  ∀ u : Word,
    (List.finRange 4).map (circulant u 0) = [elem 0 u, elem 1 u, elem 2 u, elem 3 u] ∧
    (List.finRange 4).map (circulant u 1) = [elem 3 u, elem 0 u, elem 1 u, elem 2 u] ∧
    (List.finRange 4).map (circulant u 2) = [elem 2 u, elem 3 u, elem 0 u, elem 1 u] ∧
    (List.finRange 4).map (circulant u 3) = [elem 1 u, elem 2 u, elem 3 u, elem 0 u] ∧
    ∀ j i k : Fin 4, k.val = ((i.val : Int) - (j.val : Int)) % 4 → circulant u j i = elem k u

/-- For all words: gfAdd32 is commutative, associative, has identity 0 and every word is its own inverse; gfCmul32 is
commutative, linear over gfAdd32 in each operand, and has identity 0x01000000. (R125, an inference the spec marks as
its own, from R120, R122 and R90.) (R120, R122, R90.) -/
def Obligations.WordFunctionLaws : Prop :=
  ∀ u v w : Word,
    gfAdd32 u v = gfAdd32 v u ∧ gfAdd32 (gfAdd32 u v) w = gfAdd32 u (gfAdd32 v w) ∧ gfAdd32 u 0 = u ∧
    gfAdd32 u u = 0 ∧
    gfCmul32 u v = gfCmul32 v u ∧
    gfCmul32 u (gfAdd32 v w) = gfAdd32 (gfCmul32 u v) (gfCmul32 u w) ∧
    gfCmul32 (gfAdd32 u v) w = gfAdd32 (gfCmul32 u w) (gfCmul32 v w) ∧
    gfCmul32 0x01000000#32 v = v

/-- For every word u and all i, j: there are words v and v' that differ in element j alone and give different output
elements i exactly when u_((i-j) mod 4) is nonzero; when all four elements of u are nonzero every output element
depends on every input element; and with u = 0x01000000 output element i depends on input element i alone. (R126, an
inference the spec marks as its own, from R122.) (R122, R121.) -/
def Obligations.OutputDependsExactlyOnNonzeroCoefficients : Prop :=
  (∀ (u : Word) (i j : Fin 4),
    (∃ v v' : Word, (∀ k : Fin 4, k ≠ j → elem k v = elem k v') ∧
      elem i (gfCmul32 u v) ≠ elem i (gfCmul32 u v')) ↔ elem (i - j) u ≠ 0) ∧
  (∀ u : Word, (∀ k : Fin 4, elem k u ≠ 0) → ∀ i j : Fin 4, ∃ v v' : Word,
    (∀ k : Fin 4, k ≠ j → elem k v = elem k v') ∧ elem i (gfCmul32 u v) ≠ elem i (gfCmul32 u v')) ∧
  ∀ (v v' : Word) (i : Fin 4), elem i v = elem i v' →
    elem i (gfCmul32 0x01000000#32 v) = elem i (gfCmul32 0x01000000#32 v')

/-- After a first reset, ADD8 (opcode 0x0) of any a and b answers the next state with RES = zext_32(a[7:0] ^ b[7:0]),
OV 1, OE 0 and all else, ES included, unchanged; the upper 24 bits of RES are 0; equal operands give 0, B8 = 0 gives
A8; 0xFF + 0x01 is 0xFE; 0xa4 + 0x39 is 0x9d. (R85.) -/
def Obligations.Add8AddsBytes : Prop :=
  (∀ (a b : Word) (s : State), s.resetDone = true →
    decodeFields 0x0#4 a b = .add8 a b ∧
    exec (.add8 a b) s = .next { s with
      res := (a.setWidth 8 ^^^ b.setWidth 8 : Byte).setWidth 32, ov := true, oe := false } ∧
    ((a.setWidth 8 ^^^ b.setWidth 8 : Byte).setWidth 32 : Word).extractLsb' 8 24 = 0) ∧
  (∀ x y : Byte, gfAdd8 x y = x ^^^ y ∧ gfAdd8 x x = 0x00#8 ∧ gfAdd8 x 0x00#8 = x) ∧ gfAdd8 0xFF#8 0x01#8 = 0xFE#8 ∧
  gfAdd8 0xA4#8 0x39#8 = 0x9D#8

/-- After a first reset, XTIME8 (opcode 0x1) of any a and b answers the next state with RES the zero-extended byte
a[7:0] shifted left one bit, XORed with 0x1B when a[7] is 1, OV 1, OE 0 and all else unchanged; the five corner cases
and the example of R86. (R86.) -/
def Obligations.Xtime8Doubles : Prop :=
  (∀ (a b : Word) (s : State), s.resetDone = true →
    decodeFields 0x1#4 a b = .xtime8 a b ∧
    exec (.xtime8 a b) s = .next { s with
      res := (if a.getLsbD 7 then (a.setWidth 8 <<< 1) ^^^ 0x1B#8 else (a.setWidth 8 <<< 1 : Byte)).setWidth 32
      ov := true
      oe := false }) ∧
  (∀ x : Byte, xtime x = if x.getLsbD 7 then (x <<< 1) ^^^ 0x1B#8 else x <<< 1) ∧
  xtime 0x80#8 = 0x1B#8 ∧ xtime 0xFF#8 = 0xE5#8 ∧ xtime 0x7F#8 = 0xFE#8 ∧ xtime 0x00#8 = 0x00#8 ∧
  xtime 0x8D#8 = 0x01#8

/-- After a first reset, MUL8 (opcode 0x2) of any a and b answers the next state with RES the zero-extended XOR, over
every k with a[k] = 1, of b[7:0] doubled k times, OV 1, OE 0 and all else unchanged; that value is gfMul8 of the low
bytes; a zero operand gives 0, A8 = 0x01 gives B8, swapped operands give the same; and the worked values of R87.
(R87.) -/
def Obligations.Mul8MultipliesBytes : Prop :=
  (∀ (a b : Word) (s : State), s.resetDone = true →
    decodeFields 0x2#4 a b = .mul8 a b ∧
    exec (.mul8 a b) s = .next { s with
      res := (mulByCoefficients (a.setWidth 8) (b.setWidth 8)).setWidth 32, ov := true, oe := false } ∧
    mulByCoefficients (a.setWidth 8) (b.setWidth 8) = gfMul8 (a.setWidth 8) (b.setWidth 8)) ∧
  (∀ x y : Byte, gfMul8 0x00#8 x = 0x00#8 ∧ gfMul8 x 0x00#8 = 0x00#8 ∧ gfMul8 0x01#8 x = x ∧
    gfMul8 x y = gfMul8 y x) ∧
  gfMul8 0x03#8 0x03#8 = 0x05#8 ∧ gfMul8 0xFF#8 0xFF#8 = 0x13#8 ∧ gfMul8 0x53#8 0xCA#8 = 0x01#8 ∧
  gfMul8 0x57#8 0x13#8 = 0xFE#8

/-- After a first reset, POW8 (opcode 0x3) of any a and any 32-bit exponent b answers the next state with RES the
zero-extended value of the loop of R83 on base a[7:0] and exponent b, OV 1, OE 0 and all else unchanged; the corner
cases of R88: N = 0 and N = 1 give A8 (P_POW0_MODE is LEGACY_A), base 0 gives 0 and base 1 gives 1 for every N, and
for a nonzero base N = 255 gives 1, N = 254 the inverse, N = 256 the base and N = 0xFFFFFFFF gives 1; 0x02 to the 8 is
0x1B. (R88.) -/
def Obligations.Pow8RaisesToExponent : Prop :=
  (∀ (a b : Word) (s : State), s.resetDone = true →
    decodeFields 0x3#4 a b = .pow8 a b ∧
    exec (.pow8 a b) s = .next { s with
      res := (gfPow8Loop (a.setWidth 8) b).setWidth 32, ov := true, oe := false }) ∧
  Config.pow0Mode = .legacyA ∧
  (∀ x : Byte, gfPow8Loop x 0 = x ∧ gfPow8Loop x 1 = x) ∧
  (∀ n : Word, gfPow8Loop 0x00#8 n = 0x00#8 ∧ gfPow8Loop 0x01#8 n = 0x01#8) ∧
  (∀ x : Byte, x ≠ 0 → gfPow8Loop x 255 = 0x01#8 ∧ gfPow8Loop x 254 = gfInv8 x ∧ gfPow8Loop x 256 = x ∧
    gfPow8Loop x 0xFFFFFFFF#32 = 0x01#8) ∧
  gfPow8Loop 0x02#8 8 = 0x1B#8

/-- After a first reset, INV8 (opcode 0x4) of any a and b answers the next state with RES the zero-extended ROM entry
at index a[7:0] - 1, or 0 when a[7:0] is 0, OV 1, OE 0 and all else unchanged; 0x01 gives 0x01, 0xFF gives 0x1C, 0x31
gives 0x45 with 0x31 times 0x45 = 0x01, and the inverse applied twice gives the byte back. (R89.) -/
def Obligations.Inv8GivesInverse : Prop :=
  (∀ (a b : Word) (s : State), s.resetDone = true →
    decodeFields 0x4#4 a b = .inv8 a b ∧
    exec (.inv8 a b) s = .next { s with
      res := (if h : (a.setWidth 8 : Byte) = 0 then (0x00#8 : Byte) else romRead (romIndex (a.setWidth 8) h)).setWidth 32
      ov := true
      oe := false }) ∧
  (∀ x : Byte, gfInv8 (gfInv8 x) = x ∧ gfInv8 x = if h : x = 0 then 0x00#8 else romRead (romIndex x h)) ∧
  gfInv8 0x00#8 = 0x00#8 ∧ gfInv8 0x01#8 = 0x01#8 ∧ gfInv8 0xFF#8 = 0x1C#8 ∧ gfInv8 0x31#8 = 0x45#8 ∧
  gfMul8 0x31#8 0x45#8 = 0x01#8

/-- After a first reset, ADD32 (opcode 0x5) of any a and b answers the next state with RES = a XOR b, OV 1, OE 0 and
all else unchanged; that is the element-wise sum; equal operands give 0, a zero second operand gives the first;
0x000000FF + 0x00000001 is 0x000000FE; and the example of R123. (R123.) -/
def Obligations.Add32AddsWords : Prop :=
  (∀ (a b : Word) (s : State), s.resetDone = true →
    decodeFields 0x5#4 a b = .add32 a b ∧
    exec (.add32 a b) s = .next { s with res := a ^^^ b, ov := true, oe := false } ∧ gfAdd32 a b = a ^^^ b) ∧
  (∀ u : Word, gfAdd32 u u = 0 ∧ gfAdd32 u 0 = u) ∧
  gfAdd32 0x000000FF#32 0x00000001#32 = 0x000000FE#32 ∧
  gfAdd32 0xCD435F17#32 0x55DE3FAA#32 = 0x989D60BD#32

/-- After a first reset, CMUL32 (opcode 0x6) of any a and b answers the next state with RES the word whose element i
is the sum over j of a_((i-j) mod 4) times b_j, written out as in R122, OV 1, OE 0 and all else unchanged; the corner
cases of R124: zero operands, the identity 0x01000000, the three rotations, swapped operands, an element of U that is
0 removing its terms; and the example. (R124.) -/
def Obligations.Cmul32MultipliesCirculant : Prop :=
  (∀ (a b : Word) (s : State), s.resetDone = true →
    decodeFields 0x6#4 a b = .cmul32 a b ∧
    exec (.cmul32 a b) s = .next { s with
      res := combineBe
        (gfMul8 (elem 0 a) (elem 0 b) ^^^ gfMul8 (elem 3 a) (elem 1 b) ^^^ gfMul8 (elem 2 a) (elem 2 b) ^^^
          gfMul8 (elem 1 a) (elem 3 b))
        (gfMul8 (elem 1 a) (elem 0 b) ^^^ gfMul8 (elem 0 a) (elem 1 b) ^^^ gfMul8 (elem 3 a) (elem 2 b) ^^^
          gfMul8 (elem 2 a) (elem 3 b))
        (gfMul8 (elem 2 a) (elem 0 b) ^^^ gfMul8 (elem 1 a) (elem 1 b) ^^^ gfMul8 (elem 0 a) (elem 2 b) ^^^
          gfMul8 (elem 3 a) (elem 3 b))
        (gfMul8 (elem 3 a) (elem 0 b) ^^^ gfMul8 (elem 2 a) (elem 1 b) ^^^ gfMul8 (elem 1 a) (elem 2 b) ^^^
          gfMul8 (elem 0 a) (elem 3 b))
      ov := true
      oe := false } ∧
    exec (.cmul32 a b) s = .next { s with res := gfCmul32 a b, ov := true, oe := false }) ∧
  (∀ u v : Word, gfCmul32 0 v = 0 ∧ gfCmul32 u 0 = 0 ∧ gfCmul32 0x01000000#32 v = v ∧
    gfCmul32 0x00010000#32 v = v.rotateRight 8 ∧ gfCmul32 0x00000100#32 v = v.rotateRight 16 ∧
    gfCmul32 0x00000001#32 v = v.rotateRight 24 ∧ gfCmul32 u v = gfCmul32 v u) ∧
  (∀ (u v v' : Word) (i j : Fin 4), elem (i - j) u = 0 → (∀ k : Fin 4, k ≠ j → elem k v = elem k v') →
    elem i (gfCmul32 u v) = elem i (gfCmul32 u v')) ∧
  gfCmul32 0x02010103#32 0xDB135345#32 = 0x8E4DA1BC#32

/-- After a first reset, every command with an opcode of 0x7 to 0xF (RSVD.7, RSVD.8, RSVD.9, RSVD.A, RSVD.B, RSVD.C,
RSVD.D, RSVD.E, RSVD.F), whatever its operands, answers the next state with RES 0x00000000, OV 1, OE 1, ES 1 and all
else unchanged: nothing of the opcode or the operands is recorded. out_err shows 1, and it shows 0 after every other
command, so that the cause is implied. (R141.) -/
def Obligations.ReservedOpcodesAnswerError : Prop :=
  ∀ (a b : Word) (s : State), s.resetDone = true →
    (∀ op : Opcode, 7 ≤ op.toNat → exec (decodeFields op a b) s =
      .next { s with res := 0x00000000#32, ov := true, oe := true, es := true }) ∧
    (∀ i ∈ [Instr.rsvd7 a b, .rsvd8 a b, .rsvd9 a b, .rsvdA a b, .rsvdB a b, .rsvdC a b, .rsvdD a b, .rsvdE a b,
        .rsvdF a b],
      7 ≤ i.opcode.toNat ∧ exec i s = .next { s with res := 0x00000000#32, ov := true, oe := true, es := true }) ∧
    ∀ (i : Instr) (t : State), exec i s = .next t → (t.outErr = some true ↔ 7 ≤ i.opcode.toNat)

/-- After a first reset, for every opcode below 7 and every operand values, the command answers a next state with OE 0
and RES the value Execute gives, with no error bit. (R140.) -/
def Obligations.NoDataDependentErrors : Prop :=
  ∀ (op : Opcode) (a b : Word) (s : State), op.toNat < 7 → s.resetDone = true →
    ∃ t : State, exec (decodeFields op a b) s = .next t ∧ t.oe = false ∧ t.ov = true ∧
      t.res = (execute op a b).data ∧ (execute op a b).err = false

/-- For ADD8, XTIME8, MUL8, POW8, INV8, ADD32 and CMUL32, when exec answers a next state: ES, the host's coming moves
and the reset marker are unchanged, OV is 1 and OE is 0; and for the five byte operations RES[31:8] is 0. The block
has no other register, no program counter and no memory. (R34, R64, R94.) -/
def Obligations.LegalCommandFrame : Prop :=
  ∀ (i : Instr) (s t : State), legal i = true → exec i s = .next t →
    t.es = s.es ∧ t.host = s.host ∧ t.resetDone = s.resetDone ∧ t.ov = true ∧ t.oe = false ∧
    (deliversByte i = true → t.res.extractLsb' 8 24 = 0)

/-- For RSVD.7 to RSVD.F, when exec answers a next state: the host's coming moves and the reset marker are unchanged,
RES is 0, and OV, OE and ES are 1. (R141, R142.) -/
def Obligations.ReservedCommandFrame : Prop :=
  ∀ (i : Instr) (s t : State), legal i = false → exec i s = .next t →
    t.host = s.host ∧ t.resetDone = s.resetDone ∧ t.res = 0x00000000#32 ∧ t.ov = true ∧ t.oe = true ∧ t.es = true

/-- For all commands with the same opcode whose operand ports agree on the bits that the table of R62 does not mark
ignored, exec answers the same in every state: it neither stops nor varies on ignored bits, and after a first reset it
answers a next state. (R63.) -/
def Obligations.IgnoredBitsNeverMatter : Prop :=
  ∀ (i i' : Instr) (s : State), i.opcode = i'.opcode → i.portA &&& usedA i = i'.portA &&& usedA i →
    i.portB &&& usedB i = i'.portB &&& usedB i → exec i s = exec i' s ∧ (s.resetDone = true → ∃ t, exec i s = .next t)

/-- For every command and any two states from which it answers next states, RES, OV and OE of the two next states are
the same; and from the next state the same command again answers the very same state. (That responses never depend on
earlier commands is R31, an inference the spec marks as its own, from R20 and R34.) (R20, R34, R48.) -/
def Obligations.ResponseIgnoresEarlierState : Prop :=
  ∀ (i : Instr) (s s' t t' : State), exec i s = .next t → exec i s' = .next t' →
    t.res = t'.res ∧ t.ov = t'.ov ∧ t.oe = t'.oe ∧ exec i t = .next t

/-- After a first reset, when a reserved command answers t, every command c answers a next state from t, and it is the
next state c answers without the error but for ES, which is 1. (R142.) -/
def Obligations.ErrorIsPreciseAndLocal : Prop :=
  ∀ (r c : Instr) (s t : State), s.resetDone = true → legal r = false → exec r s = .next t →
    ∃ u : State, exec c s = .next u ∧ exec c t = .next { u with es := true }

/-- State.reset meets the invariant: OE = 1 implies OV = 1, ES = 1 and RES = 0; and its reset marker is set (the
model's own field, log entry 3). (R32, R23.) -/
def Obligations.InvariantHoldsAtReset : Prop :=
  State.reset.Inv ∧ State.reset.resetDone = true

/-- From every state that meets the invariant (after a first reset, OE = 1 implies OV = 1, ES = 1 and RES = 0), a step
that answers a next state answers one that meets it, and in which a reset has been applied. (R23, R24, R141, R160.) -/
def Obligations.EveryStepKeepsInvariant : Prop :=
  ∀ s t : State, s.Inv → step s = .next t → t.Inv ∧ t.resetDone = true

/-- From every state after a first reset, for every list of host moves and every number of edges, the edges answer a
next state, again after a first reset, with that many moves used up and in_ready 1. (Edges past the last listed move
are idle edges: the model's choice, log entry 2.) (R140, R142, R166.) -/
def Obligations.BlockNeverStopsAfterReset : Prop :=
  ∀ (n : Nat) (s : State), s.resetDone = true →
    ∃ t : State, edges n s = .next t ∧ t.resetDone = true ∧ t.host = s.host.drop n ∧ t.inReady = true

/-- After a first reset, when the host presents any opcode with any operand values at the next edge, after
Config.latency edges out_valid shows 1 and out_data and out_err show the response of Execute, and the host's later
moves are still to come. (R165, R166, R170, R173.) -/
def Obligations.EveryCommandTakesOneEdge : Prop :=
  ∀ (s : State) (op : Opcode) (a b : Word) (rest : List HostMove), s.resetDone = true →
    s.host = HostMove.present op a b :: rest →
    ∃ t : State, edges Config.latency s = .next t ∧ t.outValid = some true ∧
      t.outData = some (execute op a b).data ∧ t.outErr = some (execute op a b).err ∧ t.host = rest

/-- After a first reset, for every drive of in_a and of in_b (a value of the host's own, or out_data; so in_a alone,
in_b alone, both or none chained): when the host presents a command and at the next edge a second one so driven, the
second response is Execute with the first command's result on each chained port; and when the host presents the so
driven command at the very next edge, its response is Execute with RES as it stood before that edge on each chained
port. (That a host move can drive out_data is the model's choice of form for R36, log entry 9.) (R36, R168, R165.) -/
def Obligations.ChainedOperandIsEarlierResult : Prop :=
  ∀ (s : State) (op op' : Opcode) (a b x y : Word) (da db : Drive) (rest : List HostMove), s.resetDone = true →
    (s.host = HostMove.present op a b :: ⟨false, true, op', da, db⟩ :: rest →
      (da = .value x ∨ da = .outData ∧ x = (execute op a b).data) →
      (db = .value y ∨ db = .outData ∧ y = (execute op a b).data) →
      ∃ t : State, edges 2 s = .next t ∧ t.host = rest ∧ t.response = some (execute op' x y)) ∧
    (s.host = ⟨false, true, op', da, db⟩ :: rest →
      (da = .value x ∨ da = .outData ∧ x = s.res) → (db = .value y ∨ db = .outData ∧ y = s.res) →
      ∃ t : State, edges 1 s = .next t ∧ t.host = rest ∧ t.response = some (execute op' x y))

/-- From every state after a first reset, for every host program (commands, idle edges and reset edges in any order),
the responses read in the cycles with out_valid = 1, over as many edges as the program has lines, are the responses
that the transaction view gives to its commands, in order. (R35 and R49, inferences the spec marks as its own, from
R34.) (R34, R166, R172.) -/
def Obligations.ResponsesComeInCommandOrder : Prop :=
  ∀ (p : List Line) (s : State), s.resetDone = true →
    observe p.length (s.load p) = p.filterMap lineResponse

/-- From every state after a first reset, for every host program, as many edges as it has lines, those after its last
command too, answer a next state whose RES and ES are those the transaction view gives: the data of the last response,
or 0 after a later reset, and the OR of all errors since the last reset and the ES at the start. (R35, an inference
the spec marks as its own, from R34.) (R34, R160.) -/
def Obligations.RegistersAfterAllLinesOfProgram : Prop :=
  ∀ (p : List Line) (s : State), s.resetDone = true →
    ∃ t : State, edges p.length (s.load p) = .next t ∧ (t.res, t.es) = afterLines p (s.res, s.es) ∧ t.host = []

/-- From every state after a first reset, for every host program with no reset line, ES at its end is 1 exactly when
ES was 1 at its start or some line is a command with an opcode of 7 or more; so a program of legal commands from ES =
0 ends with ES = 0. (R24, R34, R141.) -/
def Obligations.StickyErrorIsOrOfAllErrors : Prop :=
  ∀ (p : List Line) (s t : State), s.resetDone = true → Line.reset ∉ p → edges p.length (s.load p) = .next t →
    (t.es = true ↔ s.es = true ∨ ∃ (op : Opcode) (a b : Option Word), Line.command op a b ∈ p ∧ 7 ≤ op.toNat)

/-- For every system of blocks, when an edge of block k answers a next system, every other block is unchanged and
block k is the next state of its own step; and whenever block k has a next state of its own, the system's edge answers
one, whatever the other blocks are. (A system is stepped one block at a time: the model's reading, log entry 10.)
(R52, R148.) -/
def Obligations.InstancesShareNothing : Prop :=
  ∀ (blocks : System) (k : Nat) (s : State), blocks[k]? = some s →
    (∀ after : System, stepInstance k blocks = .next after →
      (∀ j : Nat, j ≠ k → after[j]? = blocks[j]?) ∧ ∃ t : State, step s = .next t ∧ after[k]? = some t) ∧
    ∀ t : State, step s = .next t → ∃ after : System, stepInstance k blocks = .next after

/-- For every host program with an end in the transaction view, from every state after a first reset, and from every
state whatever where its first line is a reset: as many edges as it has lines up to and including its last command
answer a next state that shows the response to the last command; RES and ES in it are those of the end, and the
responses read up to there, in the cycles with out_valid = 1, are those of the end, which are the responses of all its
commands in order. Exactly the programs with a command line have an end (that one with none has no end is the model's
choice, log entry 12). (R172, R34, R68.) -/
def Obligations.ProgramEndsWithResponseToLastCommand : Prop :=
  (∀ (p : List Line) (r : Word × Bool),
    (∃ e : ProgramEnd, programEnd p r = some e) ↔ ∃ (op : Opcode) (a b : Option Word), Line.command op a b ∈ p) ∧
  ∀ (p : List Line) (s : State) (e : ProgramEnd), s.resetDone = true ∨ p.head? = some .reset →
    programEnd p (s.res, s.es) = some e →
    ∃ t : State, edges (untilLastCommand p).length (s.load p) = .next t ∧
      t.response = (p.filterMap lineResponse).getLast? ∧ t.response.isSome = true ∧
      t.res = e.res ∧ t.es = e.es ∧
      observe (untilLastCommand p).length (s.load p) = e.responses ∧ e.responses = p.filterMap lineResponse
end

