-- ==== Sys2Proof/Laws/State.lean ====
section
/-! SUPPORT. One lemma per field per update of State, each true by definition. -/

namespace Sys2Proof.Machine

@[simp] theorem State.setRes_res (s : State) (d : Word) : (s.setRes d).res = d := rfl
@[simp] theorem State.setRes_ov (s : State) (d : Word) : (s.setRes d).ov = s.ov := rfl
@[simp] theorem State.setRes_oe (s : State) (d : Word) : (s.setRes d).oe = s.oe := rfl
@[simp] theorem State.setRes_es (s : State) (d : Word) : (s.setRes d).es = s.es := rfl
@[simp] theorem State.setRes_resetDone (s : State) (d : Word) : (s.setRes d).resetDone = s.resetDone := rfl
@[simp] theorem State.setRes_host (s : State) (d : Word) : (s.setRes d).host = s.host := rfl

@[simp] theorem State.flagsAccepted_res (s : State) (e : Bool) : (s.flagsAccepted e).res = s.res := rfl
@[simp] theorem State.flagsAccepted_ov (s : State) (e : Bool) : (s.flagsAccepted e).ov = true := rfl
@[simp] theorem State.flagsAccepted_oe (s : State) (e : Bool) : (s.flagsAccepted e).oe = e := rfl
@[simp] theorem State.flagsAccepted_es (s : State) (e : Bool) : (s.flagsAccepted e).es = (s.es || e) := rfl
@[simp] theorem State.flagsAccepted_resetDone (s : State) (e : Bool) : (s.flagsAccepted e).resetDone = s.resetDone := rfl
@[simp] theorem State.flagsAccepted_host (s : State) (e : Bool) : (s.flagsAccepted e).host = s.host := rfl

@[simp] theorem State.flagsIdle_res (s : State) : (s.flagsIdle).res = s.res := rfl
@[simp] theorem State.flagsIdle_ov (s : State) : (s.flagsIdle).ov = false := rfl
@[simp] theorem State.flagsIdle_oe (s : State) : (s.flagsIdle).oe = false := rfl
@[simp] theorem State.flagsIdle_es (s : State) : (s.flagsIdle).es = s.es := rfl
@[simp] theorem State.flagsIdle_resetDone (s : State) : (s.flagsIdle).resetDone = s.resetDone := rfl
@[simp] theorem State.flagsIdle_host (s : State) : (s.flagsIdle).host = s.host := rfl

@[simp] theorem State.flagsReset_res (s : State) : (s.flagsReset).res = s.res := rfl
@[simp] theorem State.flagsReset_ov (s : State) : (s.flagsReset).ov = false := rfl
@[simp] theorem State.flagsReset_oe (s : State) : (s.flagsReset).oe = false := rfl
@[simp] theorem State.flagsReset_es (s : State) : (s.flagsReset).es = false := rfl
@[simp] theorem State.flagsReset_resetDone (s : State) : (s.flagsReset).resetDone = s.resetDone := rfl
@[simp] theorem State.flagsReset_host (s : State) : (s.flagsReset).host = s.host := rfl

@[simp] theorem State.accept_res (s : State) (d : Word) (e : Bool) : (s.accept d e).res = d := rfl
@[simp] theorem State.accept_ov (s : State) (d : Word) (e : Bool) : (s.accept d e).ov = true := rfl
@[simp] theorem State.accept_oe (s : State) (d : Word) (e : Bool) : (s.accept d e).oe = e := rfl
@[simp] theorem State.accept_es (s : State) (d : Word) (e : Bool) : (s.accept d e).es = (s.es || e) := rfl
@[simp] theorem State.accept_resetDone (s : State) (d : Word) (e : Bool) : (s.accept d e).resetDone = s.resetDone := rfl
@[simp] theorem State.accept_host (s : State) (d : Word) (e : Bool) : (s.accept d e).host = s.host := rfl

@[simp] theorem State.cleared_res (s : State) : (s.cleared).res = 0 := rfl
@[simp] theorem State.cleared_ov (s : State) : (s.cleared).ov = false := rfl
@[simp] theorem State.cleared_oe (s : State) : (s.cleared).oe = false := rfl
@[simp] theorem State.cleared_es (s : State) : (s.cleared).es = false := rfl
@[simp] theorem State.cleared_resetDone (s : State) : (s.cleared).resetDone = true := rfl
@[simp] theorem State.cleared_host (s : State) : (s.cleared).host = s.host := rfl

@[simp] theorem State.presentNext_res (s : State) (w : Bundle) : (s.presentNext w).res = s.res := rfl
@[simp] theorem State.presentNext_ov (s : State) (w : Bundle) : (s.presentNext w).ov = s.ov := rfl
@[simp] theorem State.presentNext_oe (s : State) (w : Bundle) : (s.presentNext w).oe = s.oe := rfl
@[simp] theorem State.presentNext_es (s : State) (w : Bundle) : (s.presentNext w).es = s.es := rfl
@[simp] theorem State.presentNext_resetDone (s : State) (w : Bundle) : (s.presentNext w).resetDone = s.resetDone := rfl
@[simp] theorem State.presentNext_host (s : State) (w : Bundle) : (s.presentNext w).host = HostMove.ofBundle w :: s.host.tail := rfl

@[simp] theorem State.reset_res : State.reset.res = 0 := rfl
@[simp] theorem State.reset_ov : State.reset.ov = false := rfl
@[simp] theorem State.reset_oe : State.reset.oe = false := rfl
@[simp] theorem State.reset_es : State.reset.es = false := rfl
@[simp] theorem State.reset_resetDone : State.reset.resetDone = true := rfl
@[simp] theorem State.reset_host : State.reset.host = [] := rfl

end Sys2Proof.Machine
end

