-- ==== Sys2Proof/Laws/Ops.lean ====
section
/-! SUPPORT. Once per shared operation, everything it can do: the guard of the first reset, a response, the idle edge, the
reset edge, one clock edge and one step. -/

namespace Sys2Proof.Machine

/-- After a first reset the guarded effect happens. -/
theorem State.afterReset_of_resetDone {s : State} (t : State) (h : s.resetDone = true) : s.afterReset t = .next t := by
  simp [State.afterReset, h]

/-- Before the first reset the guarded effect stops (R171). -/
theorem State.afterReset_of_not_resetDone {s : State} (t : State) (h : s.resetDone = false) :
    s.afterReset t = .fault .noResetYet := by
  simp [State.afterReset, h]

/-- A guarded effect answers a next state exactly after a first reset, and then that of the effect. -/
theorem State.afterReset_eq_next_iff {s t u : State} : s.afterReset t = .next u ↔ s.resetDone = true ∧ u = t := by
  cases h : s.resetDone <;> simp [State.afterReset, h, eq_comm]

/-- A response answers a next state exactly after a first reset, and then the accepting state of R34. -/
theorem State.respond_eq_next_iff {s t : State} {d : Word} {e : Bool} :
    s.respond d e = .next t ↔ s.resetDone = true ∧ t = s.accept d e := State.afterReset_eq_next_iff

/-- An idle edge answers a next state exactly after a first reset, and then only `OV` and `OE` change (R34). -/
theorem State.idleEdge_eq_next_iff {s t : State} :
    s.idleEdge = .next t ↔ s.resetDone = true ∧ t = s.flagsIdle := State.afterReset_eq_next_iff

/-- The reset edge always answers the cleared state (R160). -/
theorem State.resetEdge_eq (s : State) : s.resetEdge = .next s.cleared := rfl

/-- The cleared state is the reset state with the host's moves kept (R32). -/
theorem State.cleared_eq (s : State) : s.cleared = { State.reset with host := s.host } := rfl

/-- The state of an accepted command, as a record update (R34). -/
theorem State.accept_eq (s : State) (d : Word) (e : Bool) :
    s.accept d e = { s with res := d, ov := true, oe := e, es := s.es || e } := rfl

/-! The rows of the opcode map (R61) and of `Execute` (R67), one lemma each. -/

@[simp] theorem decodeFields_0 (a b : Word) : decodeFields 0x0#4 a b = .add8 a b := by with_unfolding_all rfl
@[simp] theorem decodeFields_1 (a b : Word) : decodeFields 0x1#4 a b = .xtime8 a b := by with_unfolding_all rfl
@[simp] theorem decodeFields_2 (a b : Word) : decodeFields 0x2#4 a b = .mul8 a b := by with_unfolding_all rfl
@[simp] theorem decodeFields_3 (a b : Word) : decodeFields 0x3#4 a b = .pow8 a b := by with_unfolding_all rfl
@[simp] theorem decodeFields_4 (a b : Word) : decodeFields 0x4#4 a b = .inv8 a b := by with_unfolding_all rfl
@[simp] theorem decodeFields_5 (a b : Word) : decodeFields 0x5#4 a b = .add32 a b := by with_unfolding_all rfl
@[simp] theorem decodeFields_6 (a b : Word) : decodeFields 0x6#4 a b = .cmul32 a b := by with_unfolding_all rfl
@[simp] theorem decodeFields_7 (a b : Word) : decodeFields 0x7#4 a b = .rsvd7 a b := by with_unfolding_all rfl
@[simp] theorem decodeFields_8 (a b : Word) : decodeFields 0x8#4 a b = .rsvd8 a b := by with_unfolding_all rfl
@[simp] theorem decodeFields_9 (a b : Word) : decodeFields 0x9#4 a b = .rsvd9 a b := by with_unfolding_all rfl
@[simp] theorem decodeFields_A (a b : Word) : decodeFields 0xA#4 a b = .rsvdA a b := by with_unfolding_all rfl
@[simp] theorem decodeFields_B (a b : Word) : decodeFields 0xB#4 a b = .rsvdB a b := by with_unfolding_all rfl
@[simp] theorem decodeFields_C (a b : Word) : decodeFields 0xC#4 a b = .rsvdC a b := by with_unfolding_all rfl
@[simp] theorem decodeFields_D (a b : Word) : decodeFields 0xD#4 a b = .rsvdD a b := by with_unfolding_all rfl
@[simp] theorem decodeFields_E (a b : Word) : decodeFields 0xE#4 a b = .rsvdE a b := by with_unfolding_all rfl
@[simp] theorem decodeFields_F (a b : Word) : decodeFields 0xF#4 a b = .rsvdF a b := by with_unfolding_all rfl

@[simp] theorem execute_0 (a b : Word) : execute 0x0#4 a b =
    ⟨(gfAdd8 (byteOperand a) (byteOperand b)).setWidth 32, false⟩ := by with_unfolding_all rfl
@[simp] theorem execute_1 (a b : Word) : execute 0x1#4 a b =
    ⟨(xtime (byteOperand a)).setWidth 32, false⟩ := by with_unfolding_all rfl
@[simp] theorem execute_2 (a b : Word) : execute 0x2#4 a b =
    ⟨(gfMul8 (byteOperand a) (byteOperand b)).setWidth 32, false⟩ := by with_unfolding_all rfl
@[simp] theorem execute_3 (a b : Word) : execute 0x3#4 a b =
    ⟨(gfPow8 (byteOperand a) b).setWidth 32, false⟩ := by with_unfolding_all rfl
@[simp] theorem execute_4 (a b : Word) : execute 0x4#4 a b =
    ⟨(gfInv8 (byteOperand a)).setWidth 32, false⟩ := by with_unfolding_all rfl
@[simp] theorem execute_5 (a b : Word) : execute 0x5#4 a b =
    ⟨gfAdd32 a b, false⟩ := by with_unfolding_all rfl
@[simp] theorem execute_6 (a b : Word) : execute 0x6#4 a b =
    ⟨gfCmul32 a b, false⟩ := by with_unfolding_all rfl
@[simp] theorem execute_7 (a b : Word) : execute 0x7#4 a b =
    ⟨0x00000000#32, true⟩ := by with_unfolding_all rfl
@[simp] theorem execute_8 (a b : Word) : execute 0x8#4 a b =
    ⟨0x00000000#32, true⟩ := by with_unfolding_all rfl
@[simp] theorem execute_9 (a b : Word) : execute 0x9#4 a b =
    ⟨0x00000000#32, true⟩ := by with_unfolding_all rfl
@[simp] theorem execute_A (a b : Word) : execute 0xA#4 a b =
    ⟨0x00000000#32, true⟩ := by with_unfolding_all rfl
@[simp] theorem execute_B (a b : Word) : execute 0xB#4 a b =
    ⟨0x00000000#32, true⟩ := by with_unfolding_all rfl
@[simp] theorem execute_C (a b : Word) : execute 0xC#4 a b =
    ⟨0x00000000#32, true⟩ := by with_unfolding_all rfl
@[simp] theorem execute_D (a b : Word) : execute 0xD#4 a b =
    ⟨0x00000000#32, true⟩ := by with_unfolding_all rfl
@[simp] theorem execute_E (a b : Word) : execute 0xE#4 a b =
    ⟨0x00000000#32, true⟩ := by with_unfolding_all rfl
@[simp] theorem execute_F (a b : Word) : execute 0xF#4 a b =
    ⟨0x00000000#32, true⟩ := by with_unfolding_all rfl

/-- A statement about every opcode holds when it holds of the sixteen values. -/
theorem opcode_cases {p : Opcode → Prop} (h : ∀ k : Fin 16, p (BitVec.ofFin k)) (op : Opcode) : p op := h op.toFin

/-- The error bit is that of the reserved opcodes, 0x7 to 0xF (R65, R141). -/
theorem execute_err (op : Opcode) (a b : Word) : (execute op a b).err = decide (7 ≤ op.toNat) := by
  revert op
  refine opcode_cases fun k => ?_
  fin_cases k <;> with_unfolding_all rfl

/-- A reserved opcode delivers 0 (R64, R141). -/
theorem execute_data_of_reserved (op : Opcode) (a b : Word) (h : 7 ≤ op.toNat) : (execute op a b).data = 0 := by
  revert op
  refine opcode_cases fun k => ?_
  fin_cases k <;> intro h <;> first | exact absurd h (by decide) | with_unfolding_all rfl

/-- The dispatch gives every command the response of `Execute` on its opcode and ports (R34, R67). -/
theorem exec_eq_respond (i : Instr) (s : State) :
    exec i s = s.respond (execute i.opcode i.portA i.portB).data (execute i.opcode i.portA i.portB).err := by
  cases i <;> with_unfolding_all rfl

/-- After a first reset every command answers a next state: that of its response (R34, R140, R141). -/
theorem exec_eq_next (i : Instr) {s : State} (h : s.resetDone = true) :
    exec i s = .next (s.accept (execute i.opcode i.portA i.portB).data (execute i.opcode i.portA i.portB).err) := by
  rw [exec_eq_respond]
  exact State.afterReset_of_resetDone _ h

/-- Everything a command that answers a next state can have done (R34). -/
theorem exec_cases {i : Instr} {s t : State} (h : exec i s = .next t) : s.resetDone = true ∧
    t = s.accept (execute i.opcode i.portA i.portB).data (execute i.opcode i.portA i.portB).err := by
  rw [exec_eq_respond] at h
  exact State.respond_eq_next_iff.mp h

/-- `Execute` of the fields of a bundle is that of the decoded command's opcode and ports (R60, R61). -/
theorem decodeFields_fields (op : Opcode) (a b : Word) :
    (decodeFields op a b).opcode = op ∧ (decodeFields op a b).portA = a ∧ (decodeFields op a b).portB = b := by
  unfold decodeFields
  split <;> refine ⟨BitVec.eq_of_getLsbD_eq fun k hk => ?_, rfl, rfl⟩ <;> interval_cases k <;>
    simp only [Instr.opcode, *] <;> rfl

/-- The three fields of an assembled bundle are the fields it was assembled from (R60). -/
theorem bundle_fields (op : Opcode) (a b : Word) :
    bundleOp (bundleOf op a b) = op ∧ bundleA (bundleOf op a b) = a ∧ bundleB (bundleOf op a b) = b := by
  simp only [bundleOp, bundleA, bundleB, bundleOf]
  refine ⟨?_, ?_, ?_⟩ <;> apply BitVec.eq_of_getLsbD_eq <;> intro k hk <;>
    simp only [BitVec.getLsbD_extractLsb', BitVec.getLsbD_append] <;> grind

/-- A bundle is assembled from its three fields (R60). -/
theorem bundleOf_fields (w : Bundle) : bundleOf (bundleOp w) (bundleA w) (bundleB w) = w := by
  simp only [bundleOp, bundleA, bundleB, bundleOf]
  apply BitVec.eq_of_getLsbD_eq
  intro k hk
  simp only [BitVec.getLsbD_extractLsb', BitVec.getLsbD_append]
  grind

/-- A clock edge is one of the three cases of R34. -/
theorem clockEdge_eq (p : PortSample) (s : State) :
    clockEdge p s =
      if p.rst then .next s.cleared
      else if p.inValid then s.respond (execute p.inOp p.inA p.inB).data (execute p.inOp p.inA p.inB).err
      else s.idleEdge := by
  obtain ⟨h1, h2, h3⟩ := bundle_fields p.inOp p.inA p.inB
  obtain ⟨g1, g2, g3⟩ := decodeFields_fields p.inOp p.inA p.inB
  simp only [clockEdge, State.resetEdge, exec_eq_respond, decodeBundle, PortSample.bundle, h1, h2, h3, g1, g2, g3]

/-- What one step does, with the host's next move on the ports (R34, R36). -/
theorem step_eq (s : State) :
    step s = clockEdge (s.nextMove.sample s) { s with host := s.host.tail } := rfl

/-- What one step does when the host's moves are listed. -/
theorem step_of_cons {s : State} {m : HostMove} {rest : List HostMove} (h : s.host = m :: rest) :
    step s = clockEdge (m.sample s) { s with host := rest } := by
  rw [step_eq]
  simp [State.nextMove, h]

/-- Everything a step that answers a next state can have done: a reset edge, or after a first reset an accepted command or
an idle edge (R34). -/
theorem step_cases {s t : State} (h : step s = .next t) :
    (s.nextMove.rst = true ∧ t = { State.reset with host := s.host.tail }) ∨
    (s.nextMove.rst = false ∧ s.nextMove.inValid = true ∧ s.resetDone = true ∧
      t = State.accept { s with host := s.host.tail }
        (execute s.nextMove.inOp (s.nextMove.inA.at s) (s.nextMove.inB.at s)).data
        (execute s.nextMove.inOp (s.nextMove.inA.at s) (s.nextMove.inB.at s)).err) ∨
    (s.nextMove.rst = false ∧ s.nextMove.inValid = false ∧ s.resetDone = true ∧
      t = State.flagsIdle { s with host := s.host.tail }) := by
  rw [step_eq, clockEdge_eq] at h
  by_cases hr : s.nextMove.rst = true
  · rw [if_pos (show (s.nextMove.sample s).rst = true from hr)] at h
    exact .inl ⟨hr, by cases h; rfl⟩
  · rw [if_neg (show ¬(s.nextMove.sample s).rst = true from hr)] at h
    have hr' : s.nextMove.rst = false := by simpa using hr
    by_cases hv : s.nextMove.inValid = true
    · rw [if_pos (show (s.nextMove.sample s).inValid = true from hv)] at h
      exact .inr (.inl ⟨hr', hv, State.respond_eq_next_iff.mp h⟩)
    · rw [if_neg (show ¬(s.nextMove.sample s).inValid = true from hv)] at h
      exact .inr (.inr ⟨hr', by simpa using hv, State.idleEdge_eq_next_iff.mp h⟩)

/-- No edge at all (R34). -/
theorem edges_zero (s : State) : edges 0 s = .next s := rfl

/-- One edge and then `n` more, where the first answers a next state. -/
theorem edges_succ_of_next {s t : State} (n : Nat) (h : step s = .next t) : edges (n + 1) s = edges n t := by
  simp only [edges, h]

/-- `edges` is the run of the host's interface. -/
theorem edges_eq_run (n : Nat) (s : State) : edges n s = Host.Core.run Sys2Proof.core n s := by
  induction n generalizing s with
  | zero => rfl
  | succ n ih =>
    cases h : Sys2Proof.core.step s with
    | next t =>
      have h' : step s = .next t := h
      simp only [edges, Host.Core.run, h, h']
      exact ih t
    | fault r =>
      have h' : step s = .fault r := h
      simp only [edges, Host.Core.run, h, h']
      rfl
    | refused r =>
      have h' : step s = .refused r := h
      simp only [edges, Host.Core.run, h, h']
      rfl

end Sys2Proof.Machine
end

