-- ==== Sys2Proof/Laws/PerInstr.lean ====
section
/-! SUPPORT. Statements for all commands, one lemma per constructor. -/

namespace Sys2Proof.Laws.BundleFields

/-- The bundle of a command holds its opcode in bits 67:64, `in_a` in 63:32 and `in_b` in 31:0 (R60). -/
def Statement (i : Instr) : Prop :=
  bundleOp (encode i) = i.opcode ∧ bundleA (encode i) = i.portA ∧ bundleB (encode i) = i.portB

/-- Every bundle is assembled from the three fields, whatever they are. -/
theorem of_fields (i : Instr) : Statement i := Machine.bundle_fields i.opcode i.portA i.portB

theorem add8 (a b : Word) : Statement (.add8 a b) := of_fields _
theorem xtime8 (a b : Word) : Statement (.xtime8 a b) := of_fields _
theorem mul8 (a b : Word) : Statement (.mul8 a b) := of_fields _
theorem pow8 (a b : Word) : Statement (.pow8 a b) := of_fields _
theorem inv8 (a b : Word) : Statement (.inv8 a b) := of_fields _
theorem add32 (a b : Word) : Statement (.add32 a b) := of_fields _
theorem cmul32 (a b : Word) : Statement (.cmul32 a b) := of_fields _
theorem rsvd7 (a b : Word) : Statement (.rsvd7 a b) := of_fields _
theorem rsvd8 (a b : Word) : Statement (.rsvd8 a b) := of_fields _
theorem rsvd9 (a b : Word) : Statement (.rsvd9 a b) := of_fields _
theorem rsvdA (a b : Word) : Statement (.rsvdA a b) := of_fields _
theorem rsvdB (a b : Word) : Statement (.rsvdB a b) := of_fields _
theorem rsvdC (a b : Word) : Statement (.rsvdC a b) := of_fields _
theorem rsvdD (a b : Word) : Statement (.rsvdD a b) := of_fields _
theorem rsvdE (a b : Word) : Statement (.rsvdE a b) := of_fields _
theorem rsvdF (a b : Word) : Statement (.rsvdF a b) := of_fields _

end Sys2Proof.Laws.BundleFields
end

