-- ==== Sys2Proof/Laws/Transaction.lean ====
section
/-! SUPPORT. The small lemmas of the transaction view: a listing is its lines up to the last command, and lines after that
which present no command (rules R68, R172). -/

namespace Sys2Proof.Machine

@[simp] theorem isCommand_command (op : Opcode) (a b : Option Word) : isCommand (.command op a b) = true := rfl
@[simp] theorem isCommand_idle : isCommand .idle = false := rfl
@[simp] theorem isCommand_reset : isCommand .reset = false := rfl

@[simp] theorem afterLines_nil (r : Word × Bool) : afterLines [] r = r := rfl
@[simp] theorem afterLines_cons (l : Line) (p : List Line) (r : Word × Bool) :
    afterLines (l :: p) r = afterLines p (afterLine l r) := rfl

/-- A line has a response exactly when it presents a command. -/
theorem lineResponse_eq_none_iff (l : Line) : lineResponse l = none ↔ isCommand l = false := by
  cases l <;> simp [lineResponse]

/-- A program with no command line has no line up to a last command. -/
theorem untilLastCommand_eq_nil {p : List Line} (h : p.any isCommand = false) : untilLastCommand p = [] := by
  cases p with
  | nil => rfl
  | cons l p =>
    rw [List.any_cons] at h
    simp only [untilLastCommand, h]
    rfl

/-- A program is its lines up to the last command and then lines that present none (R172). -/
theorem exists_untilLastCommand_append (p : List Line) :
    ∃ rest : List Line, p = untilLastCommand p ++ rest ∧ rest.any isCommand = false := by
  induction p with
  | nil => exact ⟨[], rfl, rfl⟩
  | cons l p ih =>
    obtain ⟨rest, hp, hrest⟩ := ih
    by_cases h : (isCommand l || p.any isCommand) = true
    · refine ⟨rest, ?_, hrest⟩
      simp only [untilLastCommand, h, if_true, List.cons_append]
      rw [← hp]
    · refine ⟨l :: p, ?_, by simpa using h⟩
      simp only [untilLastCommand, h]
      rfl

end Sys2Proof.Machine
end

