-- ==== Sys2Proof/Tests/Slice0.lean ====
section
/-! SUPPORT. Tests of the model against the vectors of 95_test_vectors.md and the corner cases of the rules, a smoke test of
the well-formedness checks, and for every statement with hypotheses a state and operands that meet them. -/

namespace Sys2Proof.Tests

open Sys2Proof Sys2Proof.Machine

/-! The registers after an edge. -/

/-- `(RES, OV, OE, ES)` of a result, if it is a next state. -/
def registers (r : Result) : Option (Word × Bool × Bool × Bool) :=
  match r with
  | .next t => some (t.res, t.ov, t.oe, t.es)
  | .fault _ => none
  | .refused _ => none

/-- The registers after one step from reset that presents a bundle. -/
def afterBundle (w : Bundle) : Option (Word × Bool × Bool × Bool) := registers (step (State.reset.presentNext w))

/-- A state after a first reset in which every register differs from its reset value. -/
def busy : State := { res := 0x9D#32, ov := true, oe := true, es := true, resetDone := true, host := [] }

/-- A state before the first reset. -/
def poweredUp : State := { res := 0x12345678#32, ov := true, oe := false, es := true, resetDone := false, host := [] }

/-! Well-formedness (R66, R68): no command is ill-formed; each check on a listing line refuses a line. -/

theorem test_wf_line_both_operands : (Line.command 0x2#4 (some 0x57#32) (some 0x13#32)).wf = true := by decide
theorem test_wf_inv8_without_b : (Line.command 0x4#4 (some 0x31#32) none).wf = true := by decide
theorem test_wf_reserved_without_operands : (Line.command 0x9#4 none none).wf = true := by decide
theorem test_wf_refuses_mul8_without_b : (Line.command 0x2#4 (some 0x57#32) none).wf = false := by decide
theorem test_wf_refuses_xtime8_without_a : (Line.command 0x1#4 none none).wf = false := by decide
theorem test_wf_command : (Instr.rsvdF 0xFFFFFFFF#32 0#32).wf = true := by decide

/-! Decoding of bundles written out from R60 and R61, one per constructor. -/

theorem test_decode_add8 : decodeBundle 0x0000000a400000039#68 = .add8 0xA4#32 0x39#32 := by decide
theorem test_decode_xtime8 : decodeBundle 0x1abcdef80ffffffff#68 = .xtime8 0xABCDEF80#32 0xFFFFFFFF#32 := by decide
theorem test_decode_mul8 : decodeBundle 0x20000005700000013#68 = .mul8 0x57#32 0x13#32 := by decide
theorem test_decode_pow8 : decodeBundle 0x300000002ffffffff#68 = .pow8 0x02#32 0xFFFFFFFF#32 := by decide
theorem test_decode_inv8 : decodeBundle 0x40000003100000000#68 = .inv8 0x31#32 0#32 := by decide
theorem test_decode_add32 : decodeBundle 0x5cd435f1755de3faa#68 = .add32 0xCD435F17#32 0x55DE3FAA#32 := by decide
theorem test_decode_cmul32 : decodeBundle 0x602010103db135345#68 = .cmul32 0x02010103#32 0xDB135345#32 := by decide
theorem test_decode_rsvd7 : decodeBundle 0x70000000000000000#68 = .rsvd7 0#32 0#32 := by decide
theorem test_decode_rsvd8 : decodeBundle 0x80000000100000002#68 = .rsvd8 1#32 2#32 := by decide
theorem test_decode_rsvd9 : decodeBundle 0x9123456789abcdef0#68 = .rsvd9 0x12345678#32 0x9ABCDEF0#32 := by decide
theorem test_decode_rsvdA : decodeBundle 0xa0000000100000002#68 = .rsvdA 1#32 2#32 := by decide
theorem test_decode_rsvdB : decodeBundle 0xb0000000100000002#68 = .rsvdB 1#32 2#32 := by decide
theorem test_decode_rsvdC : decodeBundle 0xc0000000100000002#68 = .rsvdC 1#32 2#32 := by decide
theorem test_decode_rsvdD : decodeBundle 0xd0000000100000002#68 = .rsvdD 1#32 2#32 := by decide
theorem test_decode_rsvdE : decodeBundle 0xe0000000100000002#68 = .rsvdE 1#32 2#32 := by decide
theorem test_decode_rsvdF : decodeBundle 0xfffffffffffffffff#68 = .rsvdF 0xFFFFFFFF#32 0xFFFFFFFF#32 := by decide
theorem test_encode_mul8 : encode (.mul8 0x57#32 0x13#32) = 0x20000005700000013#68 := by decide
theorem test_table_word_opcode_only : decodeTableWord 8 0xB = some (.rsvdB 0#32 0#32) := by decide
theorem test_table_word_with_ports :
    decodeTableWord 72 (0x2 + 0x57 * 2 ^ 4 + 0x13 * 2 ^ 36) = some (.mul8 0x57#32 0x13#32) := by decide
theorem test_bundle_text :
    bundleText (.mul8 0x57#32 0x13#32) =
      ['2', ':', '0', '0', '0', '0', '0', '0', '5', '7', ':', '0', '0', '0', '0', '0', '0', '1', '3'] := by decide
theorem test_mnemonic : mnemonic (.rsvd9 0#32 0#32) = "RSVD.9" := by decide

/-! One edge from reset that presents a bundle of 95_test_vectors.md: RES, OV, OE, ES. -/

/-- 2.1, ignored upper bits. -/
theorem test_add8_ignores_upper_bits :
    afterBundle 0x0ffffffa412345639#68 = some (0x0000009D#32, true, false, false) := by decide
/-- 2.1, no carry. -/
theorem test_add8_no_carry : afterBundle 0x0000000ff00000001#68 = some (0x000000FE#32, true, false, false) := by decide
/-- 2.2, the reduction branch with ignored bits of a and all of b. -/
theorem test_xtime8_reduces : afterBundle 0x1abcdef80ffffffff#68 = some (0x0000001B#32, true, false, false) := by decide
/-- 2.2, no reduction. -/
theorem test_xtime8_shifts : afterBundle 0x10000005700000000#68 = some (0x000000AE#32, true, false, false) := by decide
/-- 2.3, source section 8. -/
theorem test_mul8_worked_example :
    afterBundle 0x20000005700000013#68 = some (0x000000FE#32, true, false, false) := by decide
/-- 2.3, all ones. -/
theorem test_mul8_all_ones : afterBundle 0x2000000ff000000ff#68 = some (0x00000013#32, true, false, false) := by decide
/-- 2.4, exponent 0 gives the base. -/
theorem test_pow8_exponent_zero :
    afterBundle 0x3ffffff5700000000#68 = some (0x00000057#32, true, false, false) := by decide
/-- 2.4, the largest exponent. -/
theorem test_pow8_largest_exponent :
    afterBundle 0x300000002ffffffff#68 = some (0x00000001#32, true, false, false) := by decide +kernel
/-- 2.5, the last ROM entry. -/
theorem test_inv8_last_entry :
    afterBundle 0x4000000ff00000000#68 = some (0x0000001C#32, true, false, false) := by decide +kernel
/-- 2.5, zero reads no entry. -/
theorem test_inv8_zero : afterBundle 0x40000000000000000#68 = some (0x00000000#32, true, false, false) := by decide
/-- 2.6, source section 8. -/
theorem test_add32_worked_example :
    afterBundle 0x5cd435f1755de3faa#68 = some (0x989D60BD#32, true, false, false) := by decide
/-- 2.6, no carry between elements. -/
theorem test_add32_no_carry : afterBundle 0x5000000ff00000001#68 = some (0x000000FE#32, true, false, false) := by decide
/-- 2.7, a word with u_1 and u_3 different, so that the orientation of R121 shows. -/
theorem test_cmul32_column :
    afterBundle 0x602010103db135345#68 = some (0x8E4DA1BC#32, true, false, false) := by decide
/-- 2.7, rotation right by 8. -/
theorem test_cmul32_rotates :
    afterBundle 0x600010000db135345#68 = some (0x45DB1353#32, true, false, false) := by decide
/-- 2.8. -/
theorem test_rsvd7_answers_error : afterBundle 0x70000000000000000#68 = some (0#32, true, true, true) := by decide
/-- 2.8, operands do not matter. -/
theorem test_rsvd9_answers_error : afterBundle 0x9123456789abcdef0#68 = some (0#32, true, true, true) := by decide
/-- 2.8. -/
theorem test_rsvdF_answers_error : afterBundle 0xfffffffffffffffff#68 = some (0#32, true, true, true) := by decide
/-- The word placed in the opcode table's numbering runs at the very next step. -/
theorem test_placed_word_runs :
    registers (step (State.reset.withFetchWord 8 0xB)) = some (0#32, true, true, true) := by decide

/-! Step and flag vectors (2.10) and the dropped command of program P4. -/

theorem test_idle_edge_keeps_result : registers (step busy) = some (0x9D#32, false, false, true) := by decide
theorem test_error_stays_sticky :
    registers (step (busy.presentNext 0x20000005700000013#68)) = some (0xFE#32, true, false, true) := by decide
theorem test_reset_drops_command :
    registers (step { busy with host := [⟨true, true, 0x2#4, .value 0x57#32, .value 0x13#32⟩] }) =
      some (0#32, false, false, false) := by decide
theorem test_reset_from_power_up :
    registers (step { poweredUp with host := [HostMove.reset] }) = some (0#32, false, false, false) := by decide
theorem test_no_step_before_reset : step poweredUp = .fault .noResetYet := rfl
/-- Program P1: INV8 and the MUL8 that takes its result from `out_data` at the next edge. -/
theorem test_chained_result :
    registers (edges 2 { State.reset with
      host := [HostMove.present 0x4#4 0x31#32 0#32, ⟨false, true, 0x2#4, .value 0x31#32, .outData⟩] }) =
      some (0x01#32, true, false, false) := by decide
/-- 2.9. -/
theorem test_byte_to_bits :
    byteToBits 0x57#8 = #v[false, true, false, true, false, true, true, true] := by decide
/-- 2.9. -/
theorem test_bits_to_byte :
    bitsToByte #v[false, false, false, true, false, false, true, true] = 0x13#8 := by decide

/-- The second half of program P3: its last command comes before an idle and a reset line (R172). -/
def programP3Tail : List Line :=
  [.command 0x9#4 (some 0x12345678#32) (some 0x9ABCDEF0#32), .command 0x0#4 (some 0x07#32) (some 0x07#32), .idle, .reset]

/-- Section 3, P3: the end state is RES = 0, ES = 1, before the final reset. -/
theorem test_program_end_before_final_reset :
    programEnd programP3Tail (0x10#32, false) = some ⟨0#32, true, [⟨0#32, true⟩, ⟨0#32, false⟩]⟩ := by decide
/-- Section 3, P3: after the final reset RES = 0 and ES = 0. -/
theorem test_registers_after_final_reset : afterLines programP3Tail (0x10#32, false) = (0#32, false) := by decide
theorem test_no_end_without_command : programEnd [.reset, .idle] (0x10#32, true) = none := by decide

/-! Witnesses: for each statement with hypotheses, values that meet all of them together. -/

theorem test_witness_decodingIsTotalAndExact :
    (Instr.mul8 0x57#32 0x13#32).opcode = (0x20000005700000013#68).extractLsb' 64 4 ∧
      (Instr.mul8 0x57#32 0x13#32).portA = (0x20000005700000013#68).extractLsb' 32 32 ∧
      (Instr.mul8 0x57#32 0x13#32).portB = (0x20000005700000013#68).extractLsb' 0 32 := by decide
theorem test_witness_omittedOperandsNeverMatter :
    (Line.command 0x1#4 (some 0x80#32) none).wf = true ∧ (Line.command 0x7#4 none (some 1#32)).wf = true := by decide
theorem test_witness_oneResetEdgeResetsFully :
    [HostMove.reset] ≠ [] ∧ (∀ m ∈ [HostMove.reset], m.rst = true) ∧
      ({ poweredUp with host := [HostMove.reset, HostMove.idle] } : State).host = [HostMove.reset] ++ [HostMove.idle] := by
  decide
theorem test_witness_resetWinsOverCommand :
    ({ busy with host := [⟨true, true, 0x2#4, .outData, .value 0#32⟩] } : State).host =
      (⟨true, true, 0x2#4, .outData, .value 0#32⟩ : HostMove) :: [] := by decide
theorem test_witness_noStepBeforeFirstReset : poweredUp.resetDone = false ∧ poweredUp.nextMove.rst = false := by decide
theorem test_witness_edgePerformsReset :
    busy.resetDone = true ∧ ({ busy with host := [HostMove.reset] } : State).host = HostMove.reset :: [] ∧
      HostMove.reset.rst = true := by decide
theorem test_witness_edgePerformsCommand :
    busy.resetDone = true ∧ (HostMove.present 0xF#4 0#32 0#32).rst = false ∧
      (HostMove.present 0xF#4 0#32 0#32).inValid = true ∧
      (busy.presentNext 0xf0000000000000000#68).host = HostMove.present 0xF#4 0#32 0#32 :: [] := by decide
theorem test_witness_edgePerformsIdle :
    ({ busy with host := [HostMove.idle] } : State).host = HostMove.idle :: [] ∧ HostMove.idle.rst = false ∧
      HostMove.idle.inValid = false := by decide
theorem test_witness_idleEdgesKeepResult :
    busy.resetDone = true ∧ [HostMove.idle, HostMove.idle] ≠ [] ∧
      (∀ m ∈ [HostMove.idle, HostMove.idle], m.isIdle = true) ∧
      ({ busy with host := [HostMove.idle, HostMove.idle] } : State).host = [HostMove.idle, HostMove.idle] ++ [] := by
  decide
theorem test_witness_edgesPastLastMoveAreIdle : busy.resetDone = true ∧ busy.host = [] := by decide
theorem test_witness_step_of_legal_command :
    ∃ t m, (busy.presentNext 0x6ffffffff00000000#68).host = m :: [] ∧
      step (busy.presentNext 0x6ffffffff00000000#68) = .next t ∧ m.isAccepted = true ∧ m.isReserved = false :=
  ⟨_, _, rfl, rfl, by decide, by decide⟩
theorem test_witness_step_of_reserved_command :
    ∃ t m, (State.reset.presentNext 0x70000000000000000#68).host = m :: [] ∧
      step (State.reset.presentNext 0x70000000000000000#68) = .next t ∧ m.isReserved = true :=
  ⟨_, _, rfl, rfl, by decide⟩
theorem test_witness_step_idle :
    ∃ t, step { busy with host := [HostMove.idle] } = .next t ∧ HostMove.idle.rst = false ∧
      HostMove.idle.isAccepted = false := ⟨_, rfl, by decide, by decide⟩
theorem test_witness_step_reset :
    ∃ t, step { poweredUp with host := [HostMove.reset] } = .next t ∧ HostMove.reset.rst = true :=
  ⟨_, rfl, by decide⟩
theorem test_witness_polynomials_congruent : fieldPoly ∣ bytePoly 0x80#8 - bytePoly 0x80#8 := by simp
theorem test_witness_nonzero_bytes : (0x01#8 ≠ 0) ∧ (0xFF#8 ≠ 0) ∧ (0x01#32 ≠ 0) ∧ (0xFFFFFFFF#32 ≠ 0) := by decide
theorem test_witness_circulantRowsRotateRight :
    ((3 : Fin 4).val : Int) = (((0 : Fin 4).val : Int) - ((1 : Fin 4).val : Int)) % 4 ∧
      ((0 : Fin 4).val : Int) = (((3 : Fin 4).val : Int) - ((3 : Fin 4).val : Int)) % 4 := by decide
theorem test_witness_every_element_nonzero : ∀ k : Fin 4, elem k 0x02010103#32 ≠ 0 := by decide
theorem test_witness_words_differ_in_one_element :
    (∀ k : Fin 4, k ≠ 2 → elem k 0xAABBCCDD#32 = elem k 0xAABB00DD#32) ∧ elem (0 - 2) 0x01000000#32 = 0 ∧
      elem (2 - 2) 0x01000000#32 ≠ 0 ∧ elem 3 0xAABBCCDD#32 = elem 3 0xAABB00DD#32 := by decide
theorem test_witness_opcode_ranges :
    7 ≤ (0x7#4).toNat ∧ 7 ≤ (0xF#4).toNat ∧ (0x0#4).toNat < 7 ∧ (0x6#4).toNat < 7 := by decide
theorem test_witness_completion : State.reset.resetDone = true ∧ busy.resetDone = true := by decide
theorem test_witness_reservedOpcodesAnswerError :
    Instr.rsvdF 1#32 2#32 ∈ [Instr.rsvd7 1#32 2#32, .rsvd8 1#32 2#32, .rsvd9 1#32 2#32, .rsvdA 1#32 2#32,
      .rsvdB 1#32 2#32, .rsvdC 1#32 2#32, .rsvdD 1#32 2#32, .rsvdE 1#32 2#32, .rsvdF 1#32 2#32] := by decide
theorem test_witness_legalCommandFrame :
    ∃ t, exec (.inv8 0x31#32 0#32) busy = .next t ∧ legal (.inv8 0x31#32 0#32) = true ∧
      deliversByte (.inv8 0x31#32 0#32) = true := ⟨_, rfl, by decide, by decide⟩
theorem test_witness_reservedCommandFrame :
    ∃ t, exec (.rsvdA 0#32 0#32) State.reset = .next t ∧ legal (.rsvdA 0#32 0#32) = false := ⟨_, rfl, by decide⟩
theorem test_witness_ignoredBitsNeverMatter :
    (Instr.inv8 0x31#32 0#32).opcode = (Instr.inv8 0xFFFFFF31#32 0xDEADBEEF#32).opcode ∧
      (Instr.inv8 0x31#32 0#32).portA &&& usedA (.inv8 0x31#32 0#32) =
        (Instr.inv8 0xFFFFFF31#32 0xDEADBEEF#32).portA &&& usedA (.inv8 0x31#32 0#32) ∧
      (Instr.inv8 0x31#32 0#32).portB &&& usedB (.inv8 0x31#32 0#32) =
        (Instr.inv8 0xFFFFFF31#32 0xDEADBEEF#32).portB &&& usedB (.inv8 0x31#32 0#32) := by decide
theorem test_witness_responseIgnoresEarlierState :
    (∃ t, exec (.add8 1#32 2#32) busy = .next t) ∧ ∃ t, exec (.add8 1#32 2#32) State.reset = .next t :=
  ⟨⟨_, rfl⟩, _, rfl⟩
theorem test_witness_errorIsPreciseAndLocal :
    ∃ t, State.reset.resetDone = true ∧ legal (.rsvd7 0#32 0#32) = false ∧
      exec (.rsvd7 0#32 0#32) State.reset = .next t := ⟨_, by decide, by decide, rfl⟩
theorem test_witness_everyStepKeepsInvariant :
    ∃ t, State.reset.Inv ∧ step (State.reset.presentNext 0x70000000000000000#68) = .next t := ⟨_, by decide, rfl⟩
theorem test_witness_everyCommandTakesOneEdge :
    State.reset.resetDone = true ∧ (State.reset.presentNext 0x300000002ffffffff#68).host =
      HostMove.present 0x3#4 0x02#32 0xFFFFFFFF#32 :: [] := by decide
theorem test_witness_chained_to_a_after_producer :
    State.reset.resetDone = true ∧ ({ State.reset with host :=
      [HostMove.present 0x4#4 0x31#32 0#32, ⟨false, true, 0x2#4, .outData, .value 0x31#32⟩] } : State).host =
      HostMove.present 0x4#4 0x31#32 0#32 :: ⟨false, true, 0x2#4, .outData, .value 0x31#32⟩ :: [] ∧
      (execute 0x4#4 0x31#32 0#32).data = 0x45#32 := by decide
theorem test_witness_chained_to_b_after_producer :
    State.reset.resetDone = true ∧ ({ State.reset with host :=
      [HostMove.present 0x4#4 0x31#32 0#32, ⟨false, true, 0x2#4, .value 0x31#32, .outData⟩] } : State).host =
      HostMove.present 0x4#4 0x31#32 0#32 :: ⟨false, true, 0x2#4, .value 0x31#32, .outData⟩ :: [] := by decide
theorem test_witness_chained_at_next_edge :
    busy.resetDone = true ∧ ({ busy with host := [⟨false, true, 0x0#4, .outData, .value 0x01#32⟩] } : State).host =
      (⟨false, true, 0x0#4, .outData, .value 0x01#32⟩ : HostMove) :: [] ∧ busy.res = 0x9D#32 := by decide
theorem test_witness_both_ports_chained_at_next_edge :
    busy.resetDone = true ∧ ({ busy with host := [⟨false, true, 0x2#4, .outData, .outData⟩] } : State).host =
      (⟨false, true, 0x2#4, .outData, .outData⟩ : HostMove) :: [] := by decide
theorem test_witness_programEnds_after_reset :
    busy.resetDone = true ∧ ∃ e, programEnd programP3Tail (busy.res, busy.es) = some e := ⟨by decide, _, rfl⟩
theorem test_witness_programEnds_from_power_up :
    (Line.reset :: programP3Tail).head? = some .reset ∧
      ∃ e, programEnd (Line.reset :: programP3Tail) (poweredUp.res, poweredUp.es) = some e := ⟨rfl, _, rfl⟩
theorem test_witness_stickyErrorIsOrOfAllErrors :
    ∃ t, State.reset.resetDone = true ∧ Line.reset ∉ [Line.command 0x9#4 none none, Line.idle] ∧
      edges [Line.command 0x9#4 none none, Line.idle].length
        (State.reset.load [Line.command 0x9#4 none none, Line.idle]) = .next t := ⟨_, by decide, by decide, rfl⟩
theorem test_witness_instancesShareNothing :
    ∃ t after, ([State.reset, busy] : System)[1]? = some busy ∧ step busy = .next t ∧
      stepInstance 1 [State.reset, busy] = .next after := ⟨_, _, rfl, rfl, rfl⟩

end Sys2Proof.Tests
end

section
/-! PROOFS. The bytes as residues of polynomials over Z2 modulo X^8 + X^4 + X^3 + X + 1 (rules R2, R46). -/

namespace Sys2Proof.Machine

open Polynomial

/-! The polynomial of a byte: its coefficients, its degree, and what XOR and a shift do to it. -/

theorem bytePoly_coeff (a : Byte) (k : Nat) : (bytePoly a).coeff k = if a.getLsbD k then 1 else 0 := by
  rw [bytePoly, finsetSum_coeff, Finset.sum_eq_single k]
  · split <;> simp
  · intro j _ hj
    split <;> simp [coeff_X_pow, hj.symm]
  · intro hk
    simp [BitVec.getLsbD_of_ge a k (by simpa using hk)]

theorem bytePoly_injective : Function.Injective bytePoly := by
  have hbit : ∀ x y : Bool, (if x then 1 else 0 : ZMod 2) = (if y then 1 else 0) → x = y := by decide
  intro a b h
  refine BitVec.eq_of_getLsbD_eq fun k _ => hbit _ _ ?_
  rw [← bytePoly_coeff, ← bytePoly_coeff, h]

theorem bytePoly_degree_lt (a : Byte) : (bytePoly a).degree < 8 := by
  refine (degree_lt_iff_coeff_zero _ 8).2 fun k hk => ?_
  simp [bytePoly_coeff, BitVec.getLsbD_of_ge a k hk]

/-- Addition of coefficients in Z2 is XOR. -/
theorem bytePoly_xor (a b : Byte) : bytePoly (a ^^^ b) = bytePoly a + bytePoly b := by
  have hbit : ∀ x y : Bool, (if x ^^ y then 1 else 0 : ZMod 2) =
      (if x then 1 else 0) + (if y then 1 else 0) := by decide
  ext k
  rw [coeff_add, bytePoly_coeff, bytePoly_coeff, bytePoly_coeff, BitVec.getLsbD_xor, hbit]

/-- A byte shift drops `X^8` from the product with `X`. -/
theorem X_mul_bytePoly (b : Byte) :
    X * bytePoly b = bytePoly (b <<< 1) + if b.getLsbD 7 then X ^ 8 else 0 := by
  have hshift : ∀ k ∈ Finset.range 7, (if (b <<< 1).getLsbD (k + 1) then X ^ (k + 1) else 0 : (ZMod 2)[X]) =
      X * if b.getLsbD k then X ^ k else 0 := by
    intro k hk
    have hk8 : k + 1 < 8 := Nat.succ_lt_succ (Finset.mem_range.1 hk)
    have hbit : (b <<< 1).getLsbD (k + 1) = b.getLsbD k := by simp [hk8, -BitVec.getLsbD_eq_getElem]
    rw [hbit, mul_ite, mul_zero, pow_succ']
  have hlow : bytePoly (b <<< 1) = X * ∑ k ∈ Finset.range 7, if b.getLsbD k then X ^ k else 0 := by
    rw [bytePoly, Finset.sum_range_succ', Finset.sum_congr rfl hshift, Finset.mul_sum]
    simp
  rw [hlow, bytePoly, Finset.sum_range_succ, mul_add, mul_ite, mul_zero, ← pow_succ']

theorem bytePoly_red : bytePoly Config.red = 1 + X + X ^ 3 + X ^ 4 := by
  simp [bytePoly, Finset.sum_range_succ, Config.red, Config.poly]

theorem X_pow_eight_add_bytePoly_red : X ^ 8 + bytePoly Config.red = fieldPoly := by
  rw [bytePoly_red, fieldPoly]
  ring

theorem fieldPoly_degree : fieldPoly.degree = 8 := by
  unfold fieldPoly; compute_degree!

/-! The residue of a byte. -/

/-- The residue class of the polynomial of a byte modulo the defining polynomial. -/
noncomputable def byteClass (a : Byte) : AdjoinRoot fieldPoly := AdjoinRoot.mk fieldPoly (bytePoly a)

theorem eq_of_fieldPoly_dvd_sub {a b : Byte} (h : fieldPoly ∣ bytePoly a - bytePoly b) : a = b := by
  have hdeg : (bytePoly a - bytePoly b).degree < fieldPoly.degree := by
    rw [fieldPoly_degree]
    exact (degree_sub_le _ _).trans_lt (max_lt (bytePoly_degree_lt a) (bytePoly_degree_lt b))
  exact bytePoly_injective (sub_eq_zero.1 (eq_zero_of_dvd_of_degree_lt h hdeg))

theorem byteClass_injective : Function.Injective byteClass := fun _ _ h =>
  eq_of_fieldPoly_dvd_sub (AdjoinRoot.mk_eq_mk.1 h)

@[simp] theorem byteClass_zero : byteClass 0x00#8 = 0 := by simp [byteClass, bytePoly]

@[simp] theorem byteClass_one : byteClass 0x01#8 = 1 := by simp [byteClass, bytePoly]

@[simp] theorem byteClass_gfAdd8 (a b : Byte) : byteClass (gfAdd8 a b) = byteClass a + byteClass b := by
  simp [byteClass, gfAdd8, bytePoly_xor]

/-- The dropped `X^8` is the reduction constant (R2, R80). -/
theorem mk_X_pow_eight : AdjoinRoot.mk fieldPoly (X ^ 8) = byteClass Config.red := by
  rw [byteClass, AdjoinRoot.mk_eq_mk, ← X_pow_eight_add_bytePoly_red, CharTwo.sub_eq_add]

/-- Doubling is multiplication by `X` (R80). -/
@[simp] theorem byteClass_xtime (b : Byte) : byteClass (xtime b) = AdjoinRoot.root fieldPoly * byteClass b := by
  rw [byteClass, byteClass, ← AdjoinRoot.mk_X, ← map_mul, X_mul_bytePoly, xtime]
  split
  · rw [bytePoly_xor, map_add, map_add, mk_X_pow_eight, byteClass]
  · rw [add_zero]

@[simp] theorem byteClass_xtimes (k : Nat) (b : Byte) :
    byteClass (xtimes k b) = AdjoinRoot.root fieldPoly ^ k * byteClass b := by
  induction k generalizing b with
  | zero => simp [xtimes]
  | succ k ih => rw [xtimes, ih, byteClass_xtime, pow_succ, mul_assoc]

/-- The scan of R110 reads the most significant bit first. -/
theorem byteToBits_getElem (b : Byte) (i : Nat) (h : i < 8) : (byteToBits b)[i] = b.getLsbD (7 - i) := by
  interval_cases i <;> rfl

/-- The residue of a byte, its coefficients taken in scan order. -/
theorem byteClass_eq_sum_scan (a : Byte) :
    byteClass a = ∑ i : Fin 8, if (byteToBits a)[i.val] then AdjoinRoot.root fieldPoly ^ (7 - i.val) else 0 := by
  simp only [byteToBits_getElem]
  rw [Fin.sum_univ_eq_sum_range (fun i => if a.getLsbD (7 - i) then AdjoinRoot.root fieldPoly ^ (7 - i) else 0)]
  rw [Finset.sum_range_reflect (fun i => if a.getLsbD i then AdjoinRoot.root fieldPoly ^ i else 0) 8]
  simp [byteClass, bytePoly, map_sum, apply_ite (AdjoinRoot.mk fieldPoly)]

/-- What the double-and-add scan of R82 adds to its accumulator. -/
theorem byteClass_foldl_scan (a b r : Byte) (l : List (Fin 8)) :
    byteClass (l.foldl (fun r i => if (byteToBits a)[i.val] then gfAdd8 r (xtimes (7 - i.val) b) else r) r) =
      byteClass r + (l.map fun i =>
        (if (byteToBits a)[i.val] then AdjoinRoot.root fieldPoly ^ (7 - i.val) else 0) * byteClass b).sum := by
  induction l generalizing r with
  | nil => simp
  | cons i l ih =>
    rw [List.foldl_cons, ih, List.map_cons, List.sum_cons, ← add_assoc]
    split <;> simp

@[simp] theorem byteClass_gfMul8 (a b : Byte) : byteClass (gfMul8 a b) = byteClass a * byteClass b := by
  rw [gfMul8, byteClass_foldl_scan, byteClass_zero, zero_add, ← Fin.sum_univ_def, ← Finset.sum_mul,
    ← byteClass_eq_sum_scan]

/-! The field laws: each holds of the residues, and distinct bytes have distinct residues. -/

theorem gfMul8_comm (a b : Byte) : gfMul8 a b = gfMul8 b a := byteClass_injective <| by
  simp only [byteClass_gfMul8, mul_comm]

theorem gfMul8_assoc (a b c : Byte) : gfMul8 (gfMul8 a b) c = gfMul8 a (gfMul8 b c) := byteClass_injective <| by
  simp only [byteClass_gfMul8, mul_assoc]

theorem one_gfMul8 (a : Byte) : gfMul8 0x01#8 a = a := byteClass_injective <| by
  rw [byteClass_gfMul8, byteClass_one, one_mul]

theorem gfMul8_one (a : Byte) : gfMul8 a 0x01#8 = a := by rw [gfMul8_comm, one_gfMul8]

theorem gfMul8_gfAdd8 (a b c : Byte) : gfMul8 a (gfAdd8 b c) = gfAdd8 (gfMul8 a b) (gfMul8 a c) :=
  byteClass_injective <| by simp only [byteClass_gfMul8, byteClass_gfAdd8, mul_add]

theorem gfAdd8_gfMul8 (a b c : Byte) : gfMul8 (gfAdd8 a b) c = gfAdd8 (gfMul8 a c) (gfMul8 b c) := by
  simp only [gfMul8_comm _ c, gfMul8_gfAdd8]

/-! The inverse ROM. -/

/-- The table of R44, checked row by row. -/
theorem gfMul8_of_mem_invRom : ∀ p ∈ invRom.zipIdx 1, gfMul8 (BitVec.ofNat 8 p.2) p.1 = 0x01#8 := by
  simp only [invRom, List.zipIdx_append, List.forall_mem_append, List.length_append]
  and_intros <;> decide

theorem gfMul8_romRead (k : Fin 255) : gfMul8 (BitVec.ofNat 8 (k.val + 1)) (romRead k) = 0x01#8 := by
  have hk := List.forall_mem_iff_getElem.1 gfMul8_of_mem_invRom k.val (by simp [invRom_length])
  simpa [romRead, Nat.add_comm] using hk

theorem ofNat_romIndex (a : Byte) (h : a ≠ 0) : BitVec.ofNat 8 ((romIndex a h).val + 1) = a := by
  have hpos : 0 < a.toNat := Nat.pos_of_ne_zero fun h0 => h (BitVec.eq_of_toNat_eq h0)
  rw [romIndex, Nat.sub_add_cancel hpos, BitVec.ofNat_toNat, BitVec.setWidth_eq]

theorem gfInv8_of_ne_zero {a : Byte} (h : a ≠ 0) : gfInv8 a = romRead (romIndex a h) := dif_neg h

theorem gfMul8_gfInv8 {a : Byte} (h : a ≠ 0) : gfMul8 a (gfInv8 a) = 0x01#8 := by
  have hrom := gfMul8_romRead (romIndex a h)
  rwa [ofNat_romIndex, ← gfInv8_of_ne_zero] at hrom

/-- Two inverses of one byte are equal, by commutativity and associativity alone. -/
theorem gfMul8_eq_one_iff {a : Byte} (h : a ≠ 0) (b : Byte) : gfMul8 a b = 0x01#8 ↔ b = gfInv8 a := by
  constructor
  · intro hb
    calc b = gfMul8 (gfMul8 a (gfInv8 a)) b := by rw [gfMul8_gfInv8 h, one_gfMul8]
      _ = gfMul8 (gfInv8 a) (gfMul8 a b) := by rw [gfMul8_comm a, gfMul8_assoc]
      _ = gfInv8 a := by rw [hb, gfMul8_one]
  · rintro rfl
    exact gfMul8_gfInv8 h

/-! The obligations. -/

/-- Settles O20: the scan of R82 multiplies residues, and polynomials of degree below 8 are equal when congruent. -/
theorem productIsPolynomialProductModP : Obligations.ProductIsPolynomialProductModP := by
  refine ⟨fun a b => ?_, fun _ _ => eq_of_fieldPoly_dvd_sub, rfl, rfl⟩
  rw [← AdjoinRoot.mk_eq_mk, map_mul]
  exact (byteClass_gfMul8 a b).symm

/-- Settles O22: XOR is an abelian group of exponent 2, products are products of residues, and the inverse is read from
the checked ROM. -/
theorem bytesFormField : Obligations.BytesFormField :=
  ⟨by decide, fun a b c =>
    ⟨BitVec.xor_assoc a b c, BitVec.xor_comm a b, BitVec.zero_xor, BitVec.xor_zero, BitVec.xor_self,
      gfMul8_assoc a b c, gfMul8_comm a b, one_gfMul8 a, gfMul8_one a, gfMul8_gfAdd8 a b c, gfAdd8_gfMul8 a b c,
      fun ha => gfMul8_eq_one_iff ha b⟩⟩

end Sys2Proof.Machine
end

section
/-! PROOFS. One step as an equation on the registers, and what a step and a command keep (rules R20 to R36, R160). -/

namespace Sys2Proof.Machine

/-! One step, by the host's next move (R34). -/

theorem nextMove_of_cons {s : State} {m : HostMove} {rest : List HostMove} (h : s.host = m :: rest) :
    s.nextMove = m := by
  rw [State.nextMove, h, List.headD_cons]

/-- A step is one of the three cases of R34, at the state with the next move used up. -/
theorem step_eq_ite (s : State) :
    step s =
      if s.nextMove.rst then .next (State.cleared { s with host := s.host.tail })
      else if s.nextMove.inValid then
        State.respond { s with host := s.host.tail }
          (execute s.nextMove.inOp (s.nextMove.inA.at s) (s.nextMove.inB.at s)).data
          (execute s.nextMove.inOp (s.nextMove.inA.at s) (s.nextMove.inB.at s)).err
      else State.idleEdge { s with host := s.host.tail } :=
  clockEdge_eq (s.nextMove.sample s) { s with host := s.host.tail }

theorem step_of_rst {s : State} (hr : s.nextMove.rst = true) :
    step s = .next (State.cleared { s with host := s.host.tail }) := by
  rw [step_eq_ite, if_pos hr]

theorem step_of_accepted {s : State} (hs : s.resetDone = true) (hr : s.nextMove.rst = false)
    (hv : s.nextMove.inValid = true) :
    step s = .next (State.accept { s with host := s.host.tail }
      (execute s.nextMove.inOp (s.nextMove.inA.at s) (s.nextMove.inB.at s)).data
      (execute s.nextMove.inOp (s.nextMove.inA.at s) (s.nextMove.inB.at s)).err) := by
  rw [step_eq_ite, if_neg (ne_true_of_eq_false hr), if_pos hv]
  exact State.afterReset_of_resetDone _ hs

theorem step_of_idle {s : State} (hs : s.resetDone = true) (hr : s.nextMove.rst = false)
    (hv : s.nextMove.inValid = false) :
    step s = .next (State.flagsIdle { s with host := s.host.tail }) := by
  rw [step_eq_ite, if_neg (ne_true_of_eq_false hr), if_neg (ne_true_of_eq_false hv)]
  exact State.afterReset_of_resetDone _ hs

theorem step_before_reset {s : State} (hs : s.resetDone = false) (hr : s.nextMove.rst = false) :
    step s = .fault .noResetYet := by
  rw [step_eq_ite, if_neg (ne_true_of_eq_false hr)]
  split <;> exact State.afterReset_of_not_resetDone _ hs

theorem exec_before_reset (i : Instr) {s : State} (hs : s.resetDone = false) : exec i s = .fault .noResetYet := by
  rw [exec_eq_respond]
  exact State.afterReset_of_not_resetDone _ hs

/-- Every next state is one after a first reset (R164, R171). -/
theorem resetDone_of_step {s t : State} (h : step s = .next t) : t.resetDone = true := by
  obtain ⟨-, rfl⟩ | ⟨-, -, hs, rfl⟩ | ⟨-, -, hs, rfl⟩ := step_cases h
  · rfl
  · exact hs
  · exact hs

/-- `OV` and `OE` tell what the last edge accepted (R22, R23). -/
theorem ov_oe_of_step {s t : State} (h : step s = .next t) :
    t.ov = s.nextMove.isAccepted ∧ t.oe = s.nextMove.isReserved := by
  obtain ⟨hr, rfl⟩ | ⟨hr, hv, -, rfl⟩ | ⟨hr, hv, -, rfl⟩ := step_cases h
  · simp [HostMove.isReserved, HostMove.isAccepted, hr]
  · simp [HostMove.isReserved, HostMove.isAccepted, hr, hv, execute_err]
  · simp [HostMove.isReserved, HostMove.isAccepted, hv]

theorem edges_one {s t : State} (h : step s = .next t) : edges 1 s = .next t := edges_succ_of_next 0 h

/-! What the output ports show. -/

theorem State.shown_of_resetDone {α : Type} {s : State} (hs : s.resetDone = true) (v : α) : s.shown v = some v :=
  if_pos hs

theorem State.shown_before_reset {α : Type} {s : State} (hs : s.resetDone = false) (v : α) : s.shown v = none :=
  if_neg (ne_true_of_eq_false hs)

theorem State.response_of_resetDone {s : State} (hs : s.resetDone = true) :
    s.response = if s.ov then some ⟨s.res, s.oe⟩ else none := by
  simp [State.response, State.outValid, State.shown_of_resetDone hs]

theorem State.response_accept {s : State} (hs : s.resetDone = true) (d : Word) (e : Bool) :
    (s.accept d e).response = some ⟨d, e⟩ := State.response_of_resetDone hs

/-! Commands: their responses, and that giving one twice changes nothing. -/

theorem Instr.wf_eq_true (i : Instr) : i.wf = true := by cases i <;> rfl

/-- The legal commands are those whose opcode is below 7 (R61, R65). -/
theorem legal_eq_not_reserved (i : Instr) : legal i = !decide (7 ≤ i.opcode.toNat) := by cases i <;> rfl

theorem execute_err_of_legal {i : Instr} (h : legal i = true) : (execute i.opcode i.portA i.portB).err = false := by
  rwa [legal_eq_not_reserved, Bool.not_eq_true', ← execute_err] at h

/-- A byte operation delivers a zero-extended byte (R64). -/
theorem exists_byte_of_deliversByte {i : Instr} (h : deliversByte i = true) :
    ∃ r8 : Byte, (execute i.opcode i.portA i.portB).data = r8.setWidth 32 := by
  cases i with
  | add8 a b => exact ⟨_, congrArg Response.data (execute_0 a b)⟩
  | xtime8 a b => exact ⟨_, congrArg Response.data (execute_1 a b)⟩
  | mul8 a b => exact ⟨_, congrArg Response.data (execute_2 a b)⟩
  | pow8 a b => exact ⟨_, congrArg Response.data (execute_3 a b)⟩
  | inv8 a b => exact ⟨_, congrArg Response.data (execute_4 a b)⟩
  | _ => nomatch h

theorem extractLsb'_zext_byte (r8 : Byte) : (r8.setWidth 32).extractLsb' 8 24 = 0#24 := by
  apply BitVec.eq_of_getLsbD_eq
  intro k _
  simp

theorem State.accept_accept (s : State) (d : Word) (e : Bool) : (s.accept d e).accept d e = s.accept d e := by
  simp [State.accept_eq]

/-! Chained operands. -/

theorem Drive.at_of_chained {d : Drive} {x : Word} {s : State} (h : d = .value x ∨ d = .outData ∧ x = s.res) :
    d.at s = x := by
  obtain rfl | ⟨rfl, rfl⟩ := h <;> rfl

/-- A command with chained operands takes `RES` of before the edge on each chained port (R36, R168). -/
theorem edges_one_of_chained {s : State} {op : Opcode} {x y : Word} {da db : Drive} {rest : List HostMove}
    (hs : s.resetDone = true) (hhost : s.host = ⟨false, true, op, da, db⟩ :: rest)
    (hx : da = .value x ∨ da = .outData ∧ x = s.res) (hy : db = .value y ∨ db = .outData ∧ y = s.res) :
    ∃ t : State, edges 1 s = .next t ∧ t.host = rest ∧ t.response = some (execute op x y) := by
  have hm := nextMove_of_cons hhost
  have hstep := step_of_accepted hs (by rw [hm]) (by rw [hm])
  rw [hm, Drive.at_of_chained hx, Drive.at_of_chained hy] at hstep
  exact ⟨_, edges_one hstep, by simp [hhost], State.response_accept hs _ _⟩

/-! The obligations about one step or one command. -/

/-- Settles O47, by the three cases of a step: only a reserved command's response sets `OE`. -/
theorem everyStepKeepsInvariant : Obligations.EveryStepKeepsInvariant := by
  intro s t _ h
  refine ⟨fun _ hoe => ?_, resetDone_of_step h⟩
  obtain ⟨-, rfl⟩ | ⟨-, -, -, rfl⟩ | ⟨-, -, -, rfl⟩ := step_cases h
  · cases hoe
  · rw [State.accept_oe] at hoe
    have hreserved := hoe
    rw [execute_err, decide_eq_true_iff] at hreserved
    exact ⟨rfl, by rw [State.accept_es, hoe, Bool.or_true], execute_data_of_reserved _ _ _ hreserved⟩
  · cases hoe

/-- Settles O8: every edge without `rst` and every command is guarded by the first reset. -/
theorem noStepBeforeFirstReset : Obligations.NoStepBeforeFirstReset := fun _ hs =>
  ⟨fun i => exec_before_reset i hs, step_before_reset hs, State.shown_before_reset hs _,
    State.shown_before_reset hs _, State.shown_before_reset hs _, State.shown_before_reset hs _, rfl⟩

/-- Settles O9, by the three cases of R34. -/
theorem edgePerformsOneOfThreeCases : Obligations.EdgePerformsOneOfThreeCases := by
  intro s m rest hreset hhost
  obtain rfl := nextMove_of_cons hhost
  obtain rfl : s.host.tail = rest := by rw [hhost, List.tail_cons]
  split
  case isTrue hr => exact step_of_rst hr
  case isFalse hr =>
    have hs := hreset.resolve_left hr
    rw [Bool.not_eq_true] at hr
    split
    case isTrue hv => exact step_of_accepted hs hr hv
    case isFalse hv => exact step_of_idle hs hr (Bool.eq_false_of_not_eq_true hv)

/-- Settles O14: the two flags are those of the move, and a reserved command is an accepted one. -/
theorem outputValidAndErrorArePulses : Obligations.OutputValidAndErrorArePulses := by
  intro s t m rest hhost h
  obtain rfl := nextMove_of_cons hhost
  obtain ⟨hov, hoe⟩ := ov_oe_of_step h
  have hshown := resetDone_of_step h
  refine ⟨by rw [hov], by rw [hoe], fun hreserved => ?_, State.shown_of_resetDone hshown _,
    State.shown_of_resetDone hshown _⟩
  rw [hoe, HostMove.isReserved, Bool.and_eq_true] at hreserved
  exact hov.trans hreserved.1

/-- Settles O15, by the three cases of a step. -/
theorem stickyErrorClearedOnlyByReset : Obligations.StickyErrorClearedOnlyByReset := by
  intro s t m rest hhost h
  obtain rfl := nextMove_of_cons hhost
  refine ⟨?_, State.shown_of_resetDone (resetDone_of_step h) _⟩
  obtain ⟨hr, rfl⟩ | ⟨hr, hv, -, rfl⟩ | ⟨hr, hv, -, rfl⟩ := step_cases h
  · simp [hr]
  · simp [HostMove.isReserved, HostMove.isAccepted, hr, hv, execute_err]
  · simp [HostMove.isReserved, HostMove.isAccepted, hr, hv]

/-- Settles O16, by the three cases of a step. -/
theorem resultWrittenOnlyByCommandOrReset : Obligations.ResultWrittenOnlyByCommandOrReset := by
  intro s t m rest hhost h
  obtain rfl := nextMove_of_cons hhost
  rw [← and_assoc]
  refine ⟨?_, State.shown_of_resetDone (resetDone_of_step h) _⟩
  obtain ⟨hr, rfl⟩ | ⟨hr, hv, -, rfl⟩ | ⟨hr, hv, -, rfl⟩ := step_cases h
  · simp [hr]
  · simp [HostMove.isAccepted, hr, hv]
  · simp [hr]

/-- Settles O41: a legal command's next state is its response with no error bit. -/
theorem legalCommandFrame : Obligations.LegalCommandFrame := by
  intro i s t hlegal h
  obtain ⟨-, rfl⟩ := exec_cases h
  rw [execute_err_of_legal hlegal]
  refine ⟨Bool.or_false _, rfl, rfl, rfl, rfl, fun hbyte => ?_⟩
  obtain ⟨r8, hr8⟩ := exists_byte_of_deliversByte hbyte
  rw [State.accept_res, hr8]
  exact extractLsb'_zext_byte r8

/-- Settles O44: a response is a function of the command, and giving it twice is giving it once. -/
theorem responseIgnoresEarlierState : Obligations.ResponseIgnoresEarlierState := by
  intro i s s' t t' h h'
  obtain ⟨hs, rfl⟩ := exec_cases h
  obtain ⟨-, rfl⟩ := exec_cases h'
  refine ⟨rfl, rfl, rfl, (exec_eq_next i ?_).trans ?_⟩
  · exact hs
  · rw [State.accept_accept]

/-- Settles O50: the edge of the producer leaves its result in `RES`, where the next edge's chained ports read it. -/
theorem chainedOperandIsEarlierResult : Obligations.ChainedOperandIsEarlierResult := by
  intro s op op' a b x y da db rest hs
  refine ⟨fun hhost hx hy => ?_, edges_one_of_chained hs⟩
  have hm := nextMove_of_cons hhost
  have hstep := step_of_accepted hs (by rw [hm]; rfl) (by rw [hm]; rfl)
  rw [hm] at hstep
  rw [edges_succ_of_next 1 hstep]
  exact edges_one_of_chained hs (by simp [hhost]) hx hy

/-- Settles O5: the fields of `State.reset`, and the ports that show them. -/
theorem resetLeavesClearedRegisters : Obligations.ResetLeavesClearedRegisters :=
  ⟨State.reset_res, State.reset_ov, State.reset_oe, State.reset_es, rfl, rfl, rfl, rfl, rfl⟩

/-- Settles O10, by the accepting case of the clock edge. -/
theorem stepRunsDecodedCommand : Obligations.StepRunsDecodedCommand := fun s _ _ hhost hr hv =>
  ⟨Instr.wf_eq_true _, calc
    step s = clockEdge _ _ := step_of_cons hhost
    _ = _ := (if_neg (ne_true_of_eq_false hr)).trans (if_pos hv)⟩

/-- Settles O11, from O10: the placed move presents the fields of the word's bundle. -/
theorem placedWordRunsNext : Obligations.PlacedWordRunsNext := by
  intro s nbits w
  have hstep := (stepRunsDecodedCommand (s.withFetchWord nbits w) _ _ rfl rfl rfl).2
  exact ⟨_, rfl, hstep.trans (congrArg (fun v => exec (decodeBundle v) _) (bundleOf_fields _))⟩

/-- Settles O46: `OE` is 0 in `State.reset`. -/
theorem invariantHoldsAtReset : Obligations.InvariantHoldsAtReset :=
  ⟨fun _ hoe => absurd hoe Bool.false_ne_true, State.reset_resetDone⟩

end Sys2Proof.Machine
end

section
/-! PROOFS. Idle edges, listed by the host or past its last listed move (rule R34, log entry 2). -/

namespace Sys2Proof.Machine

/-- The next move is idle when the first listed one is, and also when none is listed (log entry 2). -/
theorem nextMove_isIdle {s : State} {n : Nat} (h : ∀ m ∈ s.host.take (n + 1), m.isIdle = true) :
    s.nextMove.isIdle = true := by
  rw [State.nextMove]
  cases hhost : s.host with
  | nil => rfl
  | cons m ms => exact h m (by simp [hhost])

theorem step_of_isIdle {s : State} (hs : s.resetDone = true) (h : s.nextMove.isIdle = true) :
    step s = .next (State.flagsIdle { s with host := s.host.tail }) := by
  rw [HostMove.isIdle, Bool.and_eq_true, Bool.not_eq_true', Bool.not_eq_true'] at h
  exact step_of_idle hs h.1 h.2

/-- Edges whose moves are idle, or not listed, change nothing but `OV` and `OE` (R34). -/
theorem edges_of_isIdle (n : Nat) {s : State} (hs : s.resetDone = true)
    (h : ∀ m ∈ s.host.take (n + 1), m.isIdle = true) :
    edges (n + 1) s = .next (State.flagsIdle { s with host := s.host.drop (n + 1) }) := by
  induction n generalizing s with
  | zero => rw [edges_one (step_of_isIdle hs (nextMove_isIdle h)), List.drop_one]
  | succ n ih =>
    have htail : ∀ m ∈ s.host.tail.take (n + 1), m.isIdle = true := fun m hm =>
      h m (List.mem_of_mem_tail (by rwa [List.tail_take_eq_take_tail]))
    rw [edges_succ_of_next _ (step_of_isIdle hs (nextMove_isIdle h)),
      ih (s := State.flagsIdle { s with host := s.host.tail }) hs htail, State.flagsIdle_host, List.drop_tail]
    rfl

/-- Settles O12: the listed moves are the moves of the edges. -/
theorem idleEdgesKeepResult : Obligations.IdleEdgesKeepResult := by
  intro s ms rest hs hne hidle hhost
  obtain ⟨n, hn⟩ := Nat.exists_eq_add_one.2 (List.length_pos_iff.2 hne)
  have htake : s.host.take (n + 1) = ms := by rw [hhost, ← hn, List.take_left]
  have hdrop : s.host.drop (n + 1) = rest := by rw [hhost, ← hn, List.drop_left]
  rw [hn, edges_of_isIdle n hs (htake ▸ hidle), hdrop]
  rfl

/-- Settles O13: with no move listed, each edge's move is the idle one. -/
theorem edgesPastLastMoveAreIdle : Obligations.EdgesPastLastMoveAreIdle := by
  intro s n hs hhost
  rw [edges_of_isIdle n hs (by simp [hhost]), hhost, List.drop_nil, ← hhost]
  rfl

end Sys2Proof.Machine
end

section
/-! PROOFS. The edges of a host program simulate the transaction view, line by line (rules R35, R68, R172). -/

namespace Sys2Proof.Machine

/-- The state after the edge of a listing line, from a state after a first reset (R34, R68). -/
def State.afterLineEdge (s : State) (l : Line) : State :=
  match l with
  | .command op a b => s.accept (execute op (a.getD 0) (b.getD 0)).data (execute op (a.getD 0) (b.getD 0)).err
  | .idle => s.flagsIdle
  | .reset => s.cleared

theorem step_load_cons {s : State} (hs : s.resetDone = true) (l : Line) (p : List Line) :
    step (s.load (l :: p)) = .next ((s.afterLineEdge l).load p) := by
  cases l with
  | command op a b => exact step_of_accepted (s := s.load (.command op a b :: p)) hs rfl rfl
  | idle => exact step_of_idle (s := s.load (.idle :: p)) hs rfl rfl
  | reset => exact step_of_rst (s := s.load (.reset :: p)) rfl

theorem State.afterLineEdge_resetDone {s : State} (hs : s.resetDone = true) (l : Line) :
    (s.afterLineEdge l).resetDone = true := by
  cases l with
  | command op a b => exact hs
  | idle => exact hs
  | reset => rfl

/-- A line's edge changes `(RES, ES)` as the transaction view says (R35). -/
theorem State.afterLineEdge_registers (s : State) (l : Line) :
    ((s.afterLineEdge l).res, (s.afterLineEdge l).es) = afterLine l (s.res, s.es) := by
  cases l <;> rfl

/-- The cycle after a line's edge shows the line's response, and none where the line has none (R35). -/
theorem State.afterLineEdge_response {s : State} (hs : s.resetDone = true) (l : Line) (p : List Line) :
    ((s.afterLineEdge l).load p).response = lineResponse l := by
  rw [State.response_of_resetDone (s := (s.afterLineEdge l).load p) (State.afterLineEdge_resetDone hs l)]
  cases l <;> rfl

theorem observe_succ_of_next {s t : State} (n : Nat) (h : step s = .next t) :
    observe (n + 1) s = t.response.toList ++ observe n t := by
  simp only [observe, h]

/-- A line that is no reset sets the sticky error exactly when it presents a reserved command (R24). -/
theorem afterLine_es_eq_true_iff {l : Line} (hl : l ≠ .reset) (r : Word × Bool) :
    (afterLine l r).2 = true ↔
      r.2 = true ∨ ∃ (op : Opcode) (a b : Option Word), Line.command op a b = l ∧ 7 ≤ op.toNat := by
  cases l with
  | command op a b => simp [afterLine, execute_err]
  | idle => simp [afterLine]
  | reset => exact absurd rfl hl

theorem afterLines_es_eq_true_iff {p : List Line} (hp : Line.reset ∉ p) (r : Word × Bool) :
    (afterLines p r).2 = true ↔
      r.2 = true ∨ ∃ (op : Opcode) (a b : Option Word), Line.command op a b ∈ p ∧ 7 ≤ op.toNat := by
  induction p generalizing r with
  | nil => simp
  | cons l p ih =>
    obtain ⟨hl, hp⟩ := List.ne_and_not_mem_of_not_mem_cons hp
    rw [afterLines_cons, ih hp, afterLine_es_eq_true_iff hl.symm, or_assoc]
    simp only [List.mem_cons, or_and_right, exists_or]

/-- Settles O51, by induction on the lines: each edge shows the response of its line. -/
theorem responsesComeInCommandOrder : Obligations.ResponsesComeInCommandOrder := by
  intro p
  induction p with
  | nil => exact fun _ _ => rfl
  | cons l p ih =>
    intro s hs
    have hp := ih (s.afterLineEdge l) (State.afterLineEdge_resetDone hs l)
    rw [List.filterMap_eq_flatMap_toList] at hp ⊢
    rw [List.length_cons, observe_succ_of_next _ (step_load_cons hs l p), State.afterLineEdge_response hs, hp,
      List.flatMap_cons]

/-- Settles O52, by induction on the lines: each edge takes `(RES, ES)` where `afterLine` does. -/
theorem registersAfterAllLinesOfProgram : Obligations.RegistersAfterAllLinesOfProgram := by
  intro p
  induction p with
  | nil => exact fun s _ => ⟨s.load [], rfl, rfl, rfl⟩
  | cons l p ih =>
    intro s hs
    rw [List.length_cons, edges_succ_of_next _ (step_load_cons hs l p), afterLines_cons,
      ← State.afterLineEdge_registers]
    exact ih _ (State.afterLineEdge_resetDone hs l)

/-- Settles O53, from the registers of O52 and the errors of the transaction view. -/
theorem stickyErrorIsOrOfAllErrors : Obligations.StickyErrorIsOrOfAllErrors := by
  intro p s t hs hp ht
  obtain ⟨u, hu, hregs, -⟩ := registersAfterAllLinesOfProgram p s hs
  obtain rfl : t = u := Host.Outcome.next.inj (ht.symm.trans hu)
  rw [← afterLines_es_eq_true_iff hp (s.res, s.es), ← hregs]

end Sys2Proof.Machine
end

section
/-! PROOFS. The contents of the inverse ROM: an entry is the inverse of its index plus one, and the inverse is an
involution (rules R41, R43, R44). -/

namespace Sys2Proof.Machine

theorem toNat_ofNat_index_succ (k : Fin 255) : (BitVec.ofNat 8 (k.val + 1)).toNat = k.val + 1 :=
  Nat.mod_eq_of_lt (Nat.succ_lt_succ k.isLt)

theorem ofNat_index_succ_ne_zero (k : Fin 255) : BitVec.ofNat 8 (k.val + 1) ≠ 0 := fun h =>
  Nat.succ_ne_zero k.val ((toNat_ofNat_index_succ k).symm.trans (congrArg BitVec.toNat h))

theorem romRead_eq_gfInv8 (k : Fin 255) : romRead k = gfInv8 (BitVec.ofNat 8 (k.val + 1)) :=
  (gfMul8_eq_one_iff (ofNat_index_succ_ne_zero k) _).1 (gfMul8_romRead k)

theorem gfMul8_zero (a : Byte) : gfMul8 a 0x00#8 = 0x00#8 := byteClass_injective <| by
  rw [byteClass_gfMul8, byteClass_zero, mul_zero]

theorem gfInv8_ne_zero {a : Byte} (h : a ≠ 0) : gfInv8 a ≠ 0 := by
  intro h0
  have hone := gfMul8_gfInv8 h
  rw [h0] at hone
  exact absurd ((gfMul8_zero a).symm.trans hone) (by decide)

theorem gfInv8_gfInv8 {a : Byte} (h : a ≠ 0) : gfInv8 (gfInv8 a) = a :=
  ((gfMul8_eq_one_iff (gfInv8_ne_zero h) a).1 (by rw [gfMul8_comm, gfMul8_gfInv8 h])).symm

theorem romRead_injective : Function.Injective romRead := by
  intro k k' h
  have hinv := congrArg gfInv8 h
  rw [romRead_eq_gfInv8, romRead_eq_gfInv8, gfInv8_gfInv8 (ofNat_index_succ_ne_zero k),
    gfInv8_gfInv8 (ofNat_index_succ_ne_zero k')] at hinv
  have hindex := congrArg BitVec.toNat hinv
  rw [toNat_ofNat_index_succ, toNat_ofNat_index_succ] at hindex
  exact Fin.ext (Nat.succ_injective hindex)

theorem exists_romRead_eq {b : Byte} (h : b ≠ 0) : ∃ k : Fin 255, romRead k = b :=
  ⟨romIndex (gfInv8 b) (gfInv8_ne_zero h), by rw [← gfInv8_of_ne_zero, gfInv8_gfInv8 h]⟩

/-- Settles O24: a ROM entry is the unique inverse of its index plus one, and inverting is one to one and onto. -/
theorem inverseRomContentsRule : Obligations.InverseRomContentsRule := by
  refine ⟨fun k b => ?_, fun k => ?_, fun _ _ h => romRead_injective h, fun _ => exists_romRead_eq⟩
  · rw [romRead_eq_gfInv8]
    exact gfMul8_eq_one_iff (ofNat_index_succ_ne_zero k) b
  · rw [romRead_eq_gfInv8]
    exact gfInv8_ne_zero (ofNat_index_succ_ne_zero k)

end Sys2Proof.Machine
end

section
/-! PROOFS. A word and its four elements, most significant byte first, are one value (rule R45). -/

namespace Sys2Proof.Machine

/-! The lanes of R45, most significant byte first. -/

theorem elem_zero (w : Word) : elem 0 w = w.extractLsb' 24 8 := rfl
theorem elem_one (w : Word) : elem 1 w = w.extractLsb' 16 8 := rfl
theorem elem_two (w : Word) : elem 2 w = w.extractLsb' 8 8 := rfl
theorem elem_three (w : Word) : elem 3 w = w.extractLsb' 0 8 := rfl

/-- Each lane continues the one before it, so joined they are bits 31:0 (R45). -/
theorem combineBe_elem (w : Word) : combineBe (elem 0 w) (elem 1 w) (elem 2 w) (elem 3 w) = w := by
  rw [elem_zero, elem_one, elem_two, elem_three, combineBe,
    BitVec.extractLsb'_append_extractLsb'_eq_extractLsb' (start₂ := 24) (start₁ := 16) rfl,
    BitVec.extractLsb'_append_extractLsb'_eq_extractLsb' (start₂ := 16) (start₁ := 8) rfl,
    BitVec.extractLsb'_append_extractLsb'_eq_extractLsb' (start₂ := 8) (start₁ := 0) rfl]
  exact BitVec.extractLsb'_eq_self

@[simp] theorem elem_three_combineBe (e0 e1 e2 e3 : Byte) : elem 3 (combineBe e0 e1 e2 e3) = e3 := by
  rw [elem_three, combineBe, BitVec.extractLsb'_append_eq_right]

@[simp] theorem elem_two_combineBe (e0 e1 e2 e3 : Byte) : elem 2 (combineBe e0 e1 e2 e3) = e2 := by
  rw [elem_two, combineBe, BitVec.extractLsb'_append_eq_of_le (by decide), BitVec.extractLsb'_append_eq_right]

@[simp] theorem elem_one_combineBe (e0 e1 e2 e3 : Byte) : elem 1 (combineBe e0 e1 e2 e3) = e1 := by
  rw [elem_one, combineBe, BitVec.extractLsb'_append_eq_of_le (by decide),
    BitVec.extractLsb'_append_eq_of_le (by decide), BitVec.extractLsb'_append_eq_right]

@[simp] theorem elem_zero_combineBe (e0 e1 e2 e3 : Byte) : elem 0 (combineBe e0 e1 e2 e3) = e0 := by
  rw [elem_zero, combineBe, BitVec.extractLsb'_append_eq_of_le (by decide),
    BitVec.extractLsb'_append_eq_of_le (by decide), BitVec.extractLsb'_append_eq_left]

/-- Settles O27: the lanes tile the word, and each lane of four joined bytes is one of them. -/
theorem wordIsTupleOfElements : Obligations.WordIsTupleOfElements :=
  ⟨fun w => ⟨elem_zero w, elem_one w, elem_two w, elem_three w, combineBe_elem w⟩, fun e0 e1 e2 e3 =>
    ⟨elem_zero_combineBe e0 e1 e2 e3, elem_one_combineBe e0 e1 e2 e3, elem_two_combineBe e0 e1 e2 e3,
      elem_three_combineBe e0 e1 e2 e3⟩⟩

end Sys2Proof.Machine
end

section
/-! PROOFS. The checks on the table of the inverse ROM (rules R8, R40, R44). -/

namespace Sys2Proof.Machine

/-- The sum of the ROM's entries, row by row (R44). -/
theorem invRom_sum : (invRom.map BitVec.toNat).sum = 32640 := by
  simp only [invRom, List.map_append, List.sum_append]
  rfl

/-- Settles O25: the table of R44 as the model lists it. -/
theorem inverseRomTableChecks : Obligations.InverseRomTableChecks :=
  ⟨invRom_length, invRom_sum, rfl, rfl, rfl, rfl, rfl⟩

end Sys2Proof.Machine
end

section
/-! PROOFS. An edge of one block of a system (rules R52, R148). -/

namespace Sys2Proof.Machine

/-- An edge of block `k` is that block's own step, written back at its place: no other block is read (R52). -/
theorem stepInstance_eq_next_iff {blocks after : System} {k : Nat} {s : State} (hk : blocks[k]? = some s) :
    stepInstance k blocks = .next after ↔ ∃ t : State, step s = .next t ∧ after = blocks.set k t := by
  cases h : step s <;> simp [stepInstance, hk, h, eq_comm]

/-- Settles O54: an edge of block `k` replaces the entry at `k` by that block's own next state. -/
theorem instancesShareNothing : Obligations.InstancesShareNothing := by
  intro blocks k s hk
  refine ⟨fun after hafter => ?_, fun t ht => ⟨blocks.set k t, (stepInstance_eq_next_iff hk).2 ⟨t, ht, rfl⟩⟩⟩
  obtain ⟨t, ht, rfl⟩ := (stepInstance_eq_next_iff hk).1 hafter
  obtain ⟨hlt, -⟩ := List.getElem?_eq_some_iff.1 hk
  exact ⟨fun j hj => List.getElem?_set_ne hj.symm, t, ht, List.getElem?_set_self hlt⟩

end Sys2Proof.Machine
end

section
/-! PROOFS. A command and its bundle are one value (rules R60, R61, R66), and a response depends on the operand bits its
operation uses and on no other (rules R62, R63, R68). -/

namespace Sys2Proof.Machine

/-! A command is determined by its opcode and its two ports. -/

/-- The row that a command's own opcode selects is the command (R61). -/
theorem decodeFields_own_fields (i : Instr) : decodeFields i.opcode i.portA i.portB = i := by
  cases i <;> simp [Instr.opcode, Instr.portA, Instr.portB]

/-- Settles O1: the bundle carries the three fields whole, and they select the command again. -/
theorem decodeReadsBackEncode : Obligations.DecodeReadsBackEncode := by
  intro i
  obtain ⟨hop, ha, hb⟩ := bundle_fields i.opcode i.portA i.portB
  rw [decodeBundle, encode, hop, ha, hb, decodeFields_own_fields]

theorem encode_decodeBundle (w : Bundle) : encode (decodeBundle w) = w := by
  obtain ⟨hop, ha, hb⟩ := decodeFields_fields (bundleOp w) (bundleA w) (bundleB w)
  rw [encode, decodeBundle, hop, ha, hb, bundleOf_fields]

/-- Settles O2: the decoded command has the bundle's three fields, and they leave no other command. -/
theorem decodingIsTotalAndExact : Obligations.DecodingIsTotalAndExact := by
  intro w
  obtain ⟨hop, ha, hb⟩ := decodeFields_fields (bundleOp w) (bundleA w) (bundleB w)
  refine ⟨Instr.wf_eq_true _, hop, ha, hb, encode_decodeBundle w, fun i hop' ha' hb' => ?_⟩
  calc i = decodeFields i.opcode i.portA i.portB := (decodeFields_own_fields i).symm
    _ = decodeBundle w := by rw [hop', ha', hb']; rfl

theorem exists_instr_of_opcode (op : Opcode) : ∃ i : Instr, i.opcode = op :=
  ⟨decodeFields op 0 0, (decodeFields_fields op 0 0).1⟩

/-! The two masks of R62: a byte operation sees the low byte of a port, a word operation all of it. -/

@[simp] theorem byteOperand_and_low_byte (w : Word) : byteOperand (w &&& 0x000000FF#32) = byteOperand w := by
  rw [byteOperand, BitVec.extractLsb'_and]
  exact BitVec.and_allOnes

@[simp] theorem and_all_bits (w : Word) : w &&& 0xFFFFFFFF#32 = w := BitVec.and_allOnes

/-- `Execute` answers the same when the ignored bits of both ports are cleared (R62, R63). -/
theorem execute_and_used (i : Instr) (a b : Word) :
    execute i.opcode (a &&& usedA i) (b &&& usedB i) = execute i.opcode a b := by
  cases i with
  | add8 | xtime8 | mul8 | inv8 =>
    simp only [Instr.opcode, usedA, usedB, execute_0, execute_1, execute_2, execute_4, byteOperand_and_low_byte]
  | pow8 => simp only [Instr.opcode, usedA, usedB, execute_3, byteOperand_and_low_byte, and_all_bits]
  | add32 | cmul32 => simp only [usedA, usedB, and_all_bits]
  | rsvd7 | rsvd8 | rsvd9 | rsvdA | rsvdB | rsvdC | rsvdD | rsvdE | rsvdF => simp [Instr.opcode]

/-- `Execute` cannot tell two pairs of port values apart that agree on the used bits (R63). -/
theorem execute_congr_used {i : Instr} {a a' b b' : Word} (ha : a &&& usedA i = a' &&& usedA i)
    (hb : b &&& usedB i = b' &&& usedB i) : execute i.opcode a b = execute i.opcode a' b' := by
  rw [← execute_and_used i a b, ha, hb, execute_and_used]

/-- A listing may leave out `in_a` exactly where the table marks all of it ignored (R62, R68). -/
theorem ignoresA_opcode (i : Instr) : ignoresA i.opcode = decide (usedA i = 0) := by cases i <;> rfl

/-- A listing may leave out `in_b` exactly where the table marks all of it ignored (R62, R68). -/
theorem ignoresB_opcode (i : Instr) : ignoresB i.opcode = decide (usedB i = 0) := by cases i <;> rfl

/-- Whatever is driven for an operand that may be left out only where no bit is used, the used bits are the same (R68). -/
theorem getD_and_used {o : Option Word} {used : Word} (h : (o.isSome || decide (used = 0)) = true) (x y : Word) :
    o.getD x &&& used = o.getD y &&& used := by
  cases o with
  | some w => rfl
  | none =>
    have hused : used = 0 := by simpa using h
    simp [hused]

/-- Settles O4: the values driven for the omitted operands differ in ignored bits only. -/
theorem omittedOperandsNeverMatter : Obligations.OmittedOperandsNeverMatter := by
  intro op a b a' b' hwf
  obtain ⟨i, rfl⟩ := exists_instr_of_opcode op
  rw [Line.wf, ignoresA_opcode, ignoresB_opcode, Bool.and_eq_true] at hwf
  obtain ⟨ha, hb⟩ := hwf
  exact congrArg some (execute_congr_used (getD_and_used ha a' 0) (getD_and_used hb b' 0))

/-- Settles O43: the response is that of `Execute`, which sees the used bits only. -/
theorem ignoredBitsNeverMatter : Obligations.IgnoredBitsNeverMatter := by
  intro i i' s hop ha hb
  refine ⟨?_, fun hs => ⟨_, exec_eq_next i hs⟩⟩
  rw [exec_eq_respond, exec_eq_respond, execute_congr_used ha hb, hop]

/-- A bundle decodes to the command it is the encoding of (R60, R61). -/
theorem decodeBundle_of_encode {w : Bundle} {i : Instr} (h : encode i = w) : decodeBundle w = i :=
  h ▸ decodeReadsBackEncode i

/-- Settles O3: each of the nine bundles is the encoding of the command listed for it. -/
theorem writtenOutBundlesDecode : Obligations.WrittenOutBundlesDecode := by
  refine ⟨?_, ?_, ?_, ?_, ?_, ?_, ?_, ?_, ?_⟩ <;> exact decodeBundle_of_encode (by decide)

end Sys2Proof.Machine
end

section
/-! PROOFS. The laws of the byte functions: the order of the scan, the laws of R90 and the inverse law (rules R82, R84,
R90, R91, R113). -/

namespace Sys2Proof.Machine

/-- One turn of the product's accumulator: `b` doubled `k` times is added where `a[k] = 1` (R82). -/
def addDoubled (a b r : Byte) (k : Nat) : Byte := if a.getLsbD k then r ^^^ xtimes k b else r

theorem mulByCoefficients_eq_foldl (a b : Byte) :
    mulByCoefficients a b = (List.range 8).foldl (addDoubled a b) 0x00#8 := rfl

/-- The scan of R82 adds the same terms, the one of coefficient 7 first (R110). -/
theorem gfMul8_eq_foldl_reverse (a b : Byte) :
    gfMul8 a b = (List.range 8).reverse.foldl (addDoubled a b) 0x00#8 := by
  have hscan : (List.range 8).reverse = (List.finRange 8).map fun i => 7 - i.val := by decide
  rw [hscan, List.foldl_map, gfMul8]
  simp only [byteToBits_getElem]
  rfl

/-- Two turns of the accumulator commute, as XOR does. -/
theorem addDoubled_right_comm (a b r : Byte) (j k : Nat) :
    addDoubled a b (addDoubled a b r j) k = addDoubled a b (addDoubled a b r k) j := by
  unfold addDoubled
  split <;> split
  · ac_rfl
  all_goals rfl

theorem gfMul8_eq_mulByCoefficients (a b : Byte) : gfMul8 a b = mulByCoefficients a b := by
  rw [gfMul8_eq_foldl_reverse, mulByCoefficients_eq_foldl]
  exact (List.reverse_perm _).foldl_eq' (fun j _ k _ r => addDoubled_right_comm a b r j k) _

/-- Settles O19: the terms of the scan may be added in the opposite order. -/
theorem scanOrderNeverChangesProduct : Obligations.ScanOrderNeverChangesProduct := fun a b =>
  ⟨byteToBits_getElem a, gfMul8_eq_mulByCoefficients a b⟩

/-- Settles O21: addition is XOR, and the product commutes because that of residues does. -/
theorem byteFunctionLaws : Obligations.ByteFunctionLaws := fun a b c =>
  ⟨Nat.le_of_lt_succ (gfAdd8 a b).isLt, Nat.le_of_lt_succ (gfMul8 a b).isLt, BitVec.xor_zero, BitVec.xor_self,
    BitVec.xor_comm a b, gfMul8_comm a b, BitVec.xor_assoc a b c⟩

@[simp] theorem gfInv8_zero : gfInv8 0x00#8 = 0x00#8 := rfl

theorem gfInv8_involutive : Function.Involutive gfInv8 := by
  intro a
  by_cases ha : a = 0
  · rw [ha]; rfl
  · exact gfInv8_gfInv8 ha

/-- Settles O23: the inverse is read from the checked ROM, and zero is its own image. -/
theorem inverseLaw : Obligations.InverseLaw :=
  ⟨fun _ => gfMul8_gfInv8, gfMul8_zero 0, gfInv8_involutive⟩

end Sys2Proof.Machine
end

section
/-! PROOFS. Powers: the nonzero bytes form a group of order 255, so the closed form of R92 agrees with the loop of
R83. -/

namespace Sys2Proof.Machine

/-! The power 255 of a nonzero byte. -/

theorem byteClass_mul_byteClass_gfInv8 {a : Byte} (h : a ≠ 0) : byteClass a * byteClass (gfInv8 a) = 1 := by
  rw [← byteClass_gfMul8, gfMul8_gfInv8 h, byteClass_one]

theorem isUnit_byteClass {a : Byte} (h : a ≠ 0) : IsUnit (byteClass a) :=
  .of_mul_eq_one _ (byteClass_mul_byteClass_gfInv8 h)

theorem gfMul8_gfInv8_gfMul8 {a : Byte} (h : a ≠ 0) (x : Byte) : gfMul8 (gfInv8 a) (gfMul8 a x) = x := by
  rw [← gfMul8_assoc, gfMul8_comm (gfInv8 a), gfMul8_gfInv8 h, one_gfMul8]

theorem gfMul8_gfMul8_gfInv8 {a : Byte} (h : a ≠ 0) (x : Byte) : gfMul8 a (gfMul8 (gfInv8 a) x) = x := by
  rw [← gfMul8_assoc, gfMul8_gfInv8 h, one_gfMul8]

theorem gfMul8_ne_zero {a b : Byte} (ha : a ≠ 0) (hb : b ≠ 0) : gfMul8 a b ≠ 0 := by
  intro h0
  have hb0 := gfMul8_gfInv8_gfMul8 ha b
  rw [h0] at hb0
  exact hb (hb0.symm.trans (gfMul8_zero _))

/-- The bytes other than 0. -/
def nonzeroBytes : Finset Byte := {0}ᶜ

theorem mem_nonzeroBytes {a : Byte} : a ∈ nonzeroBytes ↔ a ≠ 0 := by simp [nonzeroBytes]

theorem card_nonzeroBytes : nonzeroBytes.card = 255 := by
  rw [nonzeroBytes, Finset.card_compl, Finset.card_singleton, ← FinEnum.card_eq_fintypeCard, FinEnum.card_bitVec]
  rfl

/-- Multiplication by a nonzero byte permutes the nonzero bytes; division undoes it. -/
theorem prod_byteClass_gfMul8 {a : Byte} (h : a ≠ 0) :
    ∏ x ∈ nonzeroBytes, byteClass (gfMul8 a x) = ∏ x ∈ nonzeroBytes, byteClass x := by
  refine Finset.prod_nbij' (gfMul8 a) (gfMul8 (gfInv8 a)) ?_ ?_ (fun x _ => gfMul8_gfInv8_gfMul8 h x)
    (fun x _ => gfMul8_gfMul8_gfInv8 h x) fun _ _ => rfl
  · exact fun x hx => mem_nonzeroBytes.2 (gfMul8_ne_zero h (mem_nonzeroBytes.1 hx))
  · exact fun x hx => mem_nonzeroBytes.2 (gfMul8_ne_zero (gfInv8_ne_zero h) (mem_nonzeroBytes.1 hx))

/-- The product of all nonzero bytes is unchanged when each factor is multiplied by `a`, and it can be cancelled
(R92). -/
theorem byteClass_pow_255 {a : Byte} (h : a ≠ 0) : byteClass a ^ 255 = 1 := by
  have hunit : IsUnit (∏ x ∈ nonzeroBytes, byteClass x) :=
    IsUnit.prod_iff.2 fun _ hx => isUnit_byteClass (mem_nonzeroBytes.1 hx)
  refine hunit.mul_right_cancel ?_
  calc byteClass a ^ 255 * ∏ x ∈ nonzeroBytes, byteClass x
      = ∏ x ∈ nonzeroBytes, byteClass (gfMul8 a x) := by
        simp only [byteClass_gfMul8, Finset.prod_mul_distrib, Finset.prod_const, card_nonzeroBytes]
    _ = 1 * ∏ x ∈ nonzeroBytes, byteClass x := by rw [prod_byteClass_gfMul8 h, one_mul]

/-! The loop of R83. -/

@[simp] theorem byteClass_mulTimes (k : Nat) (a acc : Byte) :
    byteClass (mulTimes k a acc) = byteClass acc * byteClass a ^ k := by
  induction k generalizing acc with
  | zero => simp [mulTimes]
  | succ k ih => rw [mulTimes, ih, byteClass_gfMul8, pow_succ', mul_assoc]

theorem mulTimes_mod_255 {a : Byte} (h : a ≠ 0) (k : Nat) (acc : Byte) :
    mulTimes (k % 255) a acc = mulTimes k a acc := byteClass_injective <| by
  rw [byteClass_mulTimes, byteClass_mulTimes, ← pow_eq_pow_mod k (byteClass_pow_255 h)]

@[simp] theorem gfPow8Loop_exponent_zero (a : Byte) : gfPow8Loop a 0 = a := rfl

theorem gfPow8Loop_of_ne_zero (a : Byte) {n : Word} (hn : n ≠ 0) : gfPow8Loop a n = mulTimes (n.toNat - 1) a a :=
  if_neg hn

theorem toNat_ne_zero {n : Word} (hn : n ≠ 0) : n.toNat ≠ 0 := BitVec.toNat_ne.1 hn

/-- From exponent 1 on the loop computes the power (R83). -/
theorem byteClass_gfPow8Loop (a : Byte) {n : Word} (hn : n ≠ 0) :
    byteClass (gfPow8Loop a n) = byteClass a ^ n.toNat := by
  rw [gfPow8Loop_of_ne_zero a hn, byteClass_mulTimes, mul_pow_sub_one (toNat_ne_zero hn)]

theorem gfPow8Loop_base_zero (n : Word) : gfPow8Loop 0x00#8 n = 0x00#8 := by
  by_cases hn : n = 0
  · rw [hn, gfPow8Loop_exponent_zero]
  · refine byteClass_injective ?_
    rw [byteClass_gfPow8Loop _ hn, byteClass_zero, zero_pow (toNat_ne_zero hn)]

theorem gfPow8Loop_base_one (n : Word) : gfPow8Loop 0x01#8 n = 0x01#8 := by
  by_cases hn : n = 0
  · rw [hn, gfPow8Loop_exponent_zero]
  · refine byteClass_injective ?_
    rw [byteClass_gfPow8Loop _ hn, byteClass_one, one_pow]

/-- The closed form that the model evaluates is the loop (R92). -/
theorem gfPow8_eq_gfPow8Loop (a : Byte) (n : Word) : gfPow8 a n = gfPow8Loop a n := by
  rw [gfPow8]
  split_ifs with hn ha
  · rw [gfPow8Loop, if_pos hn]
  · exact ha ▸ (gfPow8Loop_base_zero n).symm
  · rw [mulTimes_mod_255 ha, gfPow8Loop_of_ne_zero a hn]

theorem gfPow8Loop_255 {a : Byte} (h : a ≠ 0) : gfPow8Loop a 255 = 0x01#8 := byteClass_injective <|
  (byteClass_gfPow8Loop a (by decide)).trans ((byteClass_pow_255 h).trans byteClass_one.symm)

/-- For a nonzero base only the exponent modulo 255 counts, exponent 0 apart (R92). -/
theorem gfPow8Loop_congr {a : Byte} (h : a ≠ 0) {m n : Word} (hm : m ≠ 0) (hn : n ≠ 0)
    (hmod : m.toNat % 255 = n.toNat % 255) : gfPow8Loop a m = gfPow8Loop a n := byteClass_injective <| by
  rw [byteClass_gfPow8Loop a hm, byteClass_gfPow8Loop a hn, pow_eq_pow_mod m.toNat (byteClass_pow_255 h), hmod,
    ← pow_eq_pow_mod n.toNat (byteClass_pow_255 h)]

theorem gfPow8Loop_254 {a : Byte} (h : a ≠ 0) : gfPow8Loop a 254 = gfInv8 a := by
  refine (gfMul8_eq_one_iff h _).1 (byteClass_injective ?_)
  calc byteClass (gfMul8 a (gfPow8Loop a 254))
      = byteClass a * byteClass a ^ 254 := by
        rw [byteClass_gfMul8, byteClass_gfPow8Loop a (by decide), show (254 : Word).toNat = 254 from rfl]
    _ = byteClass 0x01#8 := by rw [← pow_succ', byteClass_pow_255 h, byteClass_one]

theorem gfPow8Loop_256 {a : Byte} (h : a ≠ 0) : gfPow8Loop a 256 = a :=
  gfPow8Loop_congr h (n := 1) (by decide) (by decide) (by decide)

/-- The largest exponent is a multiple of 255. -/
theorem gfPow8Loop_max {a : Byte} (h : a ≠ 0) : gfPow8Loop a 0xFFFFFFFF#32 = 0x01#8 :=
  (gfPow8Loop_congr h (n := 255) (by decide) (by decide) (by decide)).trans (gfPow8Loop_255 h)

/-- The reduced exponent of R92 lies in 1..255, and is the exponent modulo 255. -/
theorem gfPow8Loop_reduced {a : Byte} (h : a ≠ 0) {n : Word} (hn : n ≠ 0) :
    gfPow8Loop a n = gfPow8Loop a (BitVec.ofNat 32 ((n.toNat - 1) % 255 + 1)) := by
  have hpos := toNat_ne_zero hn
  have hnat : (BitVec.ofNat 32 ((n.toNat - 1) % 255 + 1)).toNat = (n.toNat - 1) % 255 + 1 :=
    Nat.mod_eq_of_lt (by omega)
  refine gfPow8Loop_congr h hn (fun h0 => Nat.succ_ne_zero _ (hnat.symm.trans (congrArg BitVec.toNat h0))) ?_
  rw [hnat]
  omega

/-- Settles O26: `a ^ 255 = 1` lets the number of multiplications be taken modulo 255. -/
theorem powerClosedFormAgreesWithLoop : Obligations.PowerClosedFormAgreesWithLoop := by
  refine fun a n => ⟨gfPow8_eq_gfPow8Loop a n, fun _ ha => ?_, fun hn ha => ⟨gfPow8Loop_reduced ha hn, ?_, ?_⟩,
    gfPow8Loop_255, rfl⟩
  · exact ha ▸ gfPow8Loop_base_zero n
  · exact Nat.le_add_left _ _
  · exact Nat.mod_lt _ (by decide)

end Sys2Proof.Machine
end

section
/-! PROOFS. The byte operations ADD8, XTIME8, MUL8, POW8 and INV8: the next state, and the worked values (rules R85 to
R89). -/

namespace Sys2Proof.Machine

theorem byteOperand_eq_setWidth (w : Word) : byteOperand w = w.setWidth 8 :=
  (BitVec.setWidth_eq_extractLsb' (by decide)).symm

/-- After a first reset a command that delivers the byte `r8` changes `RES`, `OV` and `OE` only (R34, R64, R140). -/
theorem exec_eq_next_of_byte {i : Instr} {s : State} (hs : s.resetDone = true) {r8 : Byte}
    (hr : execute i.opcode i.portA i.portB = ⟨r8.setWidth 32, false⟩) :
    exec i s = .next { s with res := r8.setWidth 32, ov := true, oe := false } := by
  rw [exec_eq_next i hs, hr, State.accept_eq, Bool.or_false]

theorem exec_add8 (a b : Word) {s : State} (hs : s.resetDone = true) : exec (.add8 a b) s =
    .next { s with res := (gfAdd8 (a.setWidth 8) (b.setWidth 8)).setWidth 32, ov := true, oe := false } := by
  rw [← byteOperand_eq_setWidth, ← byteOperand_eq_setWidth]
  exact exec_eq_next_of_byte hs (execute_0 a b)

theorem exec_xtime8 (a b : Word) {s : State} (hs : s.resetDone = true) : exec (.xtime8 a b) s =
    .next { s with res := (xtime (a.setWidth 8)).setWidth 32, ov := true, oe := false } := by
  rw [← byteOperand_eq_setWidth]
  exact exec_eq_next_of_byte hs (execute_1 a b)

theorem exec_mul8 (a b : Word) {s : State} (hs : s.resetDone = true) : exec (.mul8 a b) s =
    .next { s with res := (gfMul8 (a.setWidth 8) (b.setWidth 8)).setWidth 32, ov := true, oe := false } := by
  rw [← byteOperand_eq_setWidth, ← byteOperand_eq_setWidth]
  exact exec_eq_next_of_byte hs (execute_2 a b)

theorem exec_pow8 (a b : Word) {s : State} (hs : s.resetDone = true) : exec (.pow8 a b) s =
    .next { s with res := (gfPow8Loop (a.setWidth 8) b).setWidth 32, ov := true, oe := false } := by
  rw [← byteOperand_eq_setWidth, ← gfPow8_eq_gfPow8Loop]
  exact exec_eq_next_of_byte hs (execute_3 a b)

theorem exec_inv8 (a b : Word) {s : State} (hs : s.resetDone = true) : exec (.inv8 a b) s =
    .next { s with res := (gfInv8 (a.setWidth 8)).setWidth 32, ov := true, oe := false } := by
  rw [← byteOperand_eq_setWidth]
  exact exec_eq_next_of_byte hs (execute_4 a b)

/-- Settles O34: the scan of `gfMul8` delivers the coefficient form, and the corner cases are laws of the field. -/
theorem mul8MultipliesBytes : Obligations.Mul8MultipliesBytes := by
  refine ⟨fun a b s hs => ⟨decodeFields_2 a b, ?_, (gfMul8_eq_mulByCoefficients _ _).symm⟩, fun x y => ?_, ?_⟩
  · rw [exec_mul8 a b hs, gfMul8_eq_mulByCoefficients]
  · exact ⟨by rw [gfMul8_comm, gfMul8_zero], gfMul8_zero x, one_gfMul8 x, gfMul8_comm x y⟩
  · decide

/-- Settles O35: the closed form is the loop, and the corner cases follow from `a ^ 255 = 1`. -/
theorem pow8RaisesToExponent : Obligations.Pow8RaisesToExponent :=
  ⟨fun a b _ hs => ⟨decodeFields_3 a b, exec_pow8 a b hs⟩, rfl, fun _ => ⟨rfl, rfl⟩,
    fun n => ⟨gfPow8Loop_base_zero n, gfPow8Loop_base_one n⟩,
    fun _ hx => ⟨gfPow8Loop_255 hx, gfPow8Loop_254 hx, gfPow8Loop_256 hx, gfPow8Loop_max hx⟩, by decide⟩

/-- A byte whose product with `a` is 1 is the inverse, whichever ROM entry holds it. -/
theorem gfInv8_eq_of_gfMul8_eq_one {a b : Byte} (h : a ≠ 0) (hb : gfMul8 a b = 0x01#8) : gfInv8 a = b :=
  ((gfMul8_eq_one_iff h b).1 hb).symm

/-- Settles O36: the response is the ROM read, and each worked inverse has product 1 with its byte. -/
theorem inv8GivesInverse : Obligations.Inv8GivesInverse :=
  ⟨fun a b _ hs => ⟨decodeFields_4 a b, exec_inv8 a b hs⟩, fun x => ⟨gfInv8_involutive x, rfl⟩, gfInv8_zero,
    gfInv8_eq_of_gfMul8_eq_one (by decide) (by decide), gfInv8_eq_of_gfMul8_eq_one (by decide) (by decide),
    gfInv8_eq_of_gfMul8_eq_one (by decide) (by decide), by decide⟩

/-- Settles O32: the sum is XOR, and a zero-extended byte has no bit above bit 7. -/
theorem add8AddsBytes : Obligations.Add8AddsBytes :=
  ⟨fun a b _ hs => ⟨decodeFields_0 a b, exec_add8 a b hs, extractLsb'_zext_byte _⟩,
    fun _ _ => ⟨rfl, BitVec.xor_self, BitVec.xor_zero⟩, by decide, by decide⟩

/-- `xtime` with the reduction constant written out (R80, R8). -/
theorem xtime_eq_ite (x : Byte) : xtime x = if x.getLsbD 7 then (x <<< 1) ^^^ 0x1B#8 else x <<< 1 := rfl

/-- Settles O33: bit 7 of the port is bit 7 of the byte that is doubled. -/
theorem xtime8Doubles : Obligations.Xtime8Doubles := by
  refine ⟨fun a b s hs => ⟨decodeFields_1 a b, ?_⟩, xtime_eq_ite, by decide⟩
  have hbit : (a.setWidth 8).getLsbD 7 = a.getLsbD 7 := by rw [BitVec.getLsbD_setWidth]; rfl
  rw [exec_xtime8 a b hs, xtime_eq_ite, hbit]

end Sys2Proof.Machine
end

section
/-! PROOFS. Bits and bytes: both conversions read position `i` as bit `7 - i` (rules R110 to R112). -/

namespace Sys2Proof.Machine

theorem ofBits_eq_sum {n : Nat} (f : Fin n → Bool) : Nat.ofBits f = ∑ i, (f i).toNat * 2 ^ i.val := by
  induction n with
  | zero => rfl
  | succ n ih =>
    rw [Nat.ofBits_succ, ih, Fin.sum_univ_succ, Finset.mul_sum, add_comm]
    simp [pow_succ', mul_left_comm]

/-- The weighted sum of R111 is the number whose bit `i` is `bits[7 - i]`. -/
theorem bitsToByte_eq_ofNat_ofBits (bits : Vector Bool 8) :
    bitsToByte bits = BitVec.ofNat 8 (Nat.ofBits fun i : Fin 8 => bits[7 - i.val]) := by
  rw [bitsToByte, ofBits_eq_sum, Fin.sum_univ_def]

theorem bitsToByte_getLsbD (bits : Vector Bool 8) (i : Nat) (h : i < 8) :
    (bitsToByte bits).getLsbD i = bits[7 - i] := by
  rw [bitsToByte_eq_ofNat_ofBits, BitVec.getLsbD_ofNat, Nat.testBit_ofBits_lt _ i h, decide_eq_true h, Bool.true_and]

/-- Settles O17: the two boundary positions are instances of the general one. -/
theorem bitsOfByteMostSignificantFirst : Obligations.BitsOfByteMostSignificantFirst := fun b =>
  ⟨byteToBits_getElem b, byteToBits_getElem b 0 (by decide), byteToBits_getElem b 7 (by decide)⟩

theorem bitsToByte_byteToBits (b : Byte) : bitsToByte (byteToBits b) = b := by
  refine BitVec.eq_of_getLsbD_eq fun i hi => ?_
  rw [bitsToByte_getLsbD _ i hi, byteToBits_getElem, Nat.sub_sub_self (Nat.le_of_lt_succ hi)]

theorem byteToBits_bitsToByte (bits : Vector Bool 8) : byteToBits (bitsToByte bits) = bits := by
  refine Vector.ext fun i hi => ?_
  simp only [byteToBits_getElem, bitsToByte_getLsbD _ (7 - i) (by omega), Nat.sub_sub_self (Nat.le_of_lt_succ hi)]

/-- Settles O18: reversing the positions twice gives each bit back. -/
theorem bitConversionRoundTrip : Obligations.BitConversionRoundTrip :=
  ⟨bitsToByte_byteToBits, byteToBits_bitsToByte⟩

end Sys2Proof.Machine
end

section
/-! PROOFS. Words of four elements: addition, the circulant product, and the operations ADD32 and CMUL32 (rules R120 to
R126). -/

namespace Sys2Proof.Machine

/-! A word, one element at a time (R45). -/

theorem elem_combineBe (f : Fin 4 → Byte) (k : Fin 4) : elem k (combineBe (f 0) (f 1) (f 2) (f 3)) = f k := by
  fin_cases k
  · exact elem_zero_combineBe ..
  · exact elem_one_combineBe ..
  · exact elem_two_combineBe ..
  · exact elem_three_combineBe ..

theorem word_ext {u v : Word} (h : ∀ k, elem k u = elem k v) : u = v := by
  rw [← combineBe_elem u, h 0, h 1, h 2, h 3, combineBe_elem]

@[simp] theorem elem_zero_word (k : Fin 4) : elem k 0#32 = 0x00#8 := BitVec.extractLsb'_zero

/-- Rotating a word right by `8 * d` bits moves its elements `d` places on, modulo 4. -/
theorem elem_rotateRight (w : Word) (d k : Fin 4) : elem k (w.rotateRight (8 * d.val)) = elem (k - d) w := by
  refine BitVec.eq_of_getLsbD_eq fun i hi => ?_
  have hr : 8 * d.val % 32 = 8 * d.val := by omega
  rw [elem, elem, BitVec.getLsbD_extractLsb', BitVec.getLsbD_extractLsb', BitVec.getLsbD_rotateRight, hr, Fin.val_sub]
  by_cases hin : 24 - 8 * k.val + i < 32 - 8 * d.val
  · have hidx : 8 * d.val + (24 - 8 * k.val + i) = 24 - 8 * ((4 - d.val + k.val) % 4) + i := by omega
    rw [decide_eq_true hin, cond_true, hidx]
  · have hlt : 24 - 8 * k.val + i < 32 := by omega
    have hidx : 24 - 8 * k.val + i - (32 - 8 * d.val) = 24 - 8 * ((4 - d.val + k.val) % 4) + i := by omega
    rw [decide_eq_false hin, cond_false, decide_eq_true hlt, Bool.true_and, hidx]

/-! Addition of words (R120). -/

@[simp] theorem elem_gfAdd32 (u v : Word) (k : Fin 4) : elem k (gfAdd32 u v) = gfAdd8 (elem k u) (elem k v) :=
  elem_combineBe (fun k => gfAdd8 (elem k u) (elem k v)) k

theorem gfAdd32_eq_xor (u v : Word) : gfAdd32 u v = u ^^^ v := word_ext fun k => by
  rw [elem_gfAdd32, gfAdd8, elem, elem, elem, BitVec.extractLsb'_xor]

theorem gfAdd32_zero (u : Word) : gfAdd32 u 0 = u := (gfAdd32_eq_xor u 0).trans BitVec.xor_zero

theorem gfAdd32_self (u : Word) : gfAdd32 u u = 0 := (gfAdd32_eq_xor u u).trans BitVec.xor_self

/-- Settles O28: addition takes each element apart, and extracting an element commutes with XOR. -/
theorem wordAdditionIsXor : Obligations.WordAdditionIsXor := fun u v => ⟨elem_gfAdd32 u v, gfAdd32_eq_xor u v⟩

/-! The circulant matrix (R121). -/

/-- Settles O29: the row entries compute, and subtraction of `Fin 4` is modulo 4. -/
theorem circulantRowsRotateRight : Obligations.CirculantRowsRotateRight := by
  refine fun u => ⟨rfl, rfl, rfl, rfl, fun j i k hk => ?_⟩
  have hsub : i - j = k := Fin.ext (by rw [Fin.val_sub]; omega)
  rw [circulant, hsub]

/-! The circulant product, one element at a time (R122). -/

@[simp] theorem elem_gfCmul32 (u v : Word) (i : Fin 4) : elem i (gfCmul32 u v) = cmulElem u v i :=
  elem_combineBe (cmulElem u v) i

/-- The loop of R122 unrolled, without its start at `0x00`. -/
theorem cmulElem_eq (u v : Word) (i : Fin 4) : cmulElem u v i =
    gfAdd8 (gfAdd8 (gfAdd8 (gfMul8 (elem (i - 0) u) (elem 0 v)) (gfMul8 (elem (i - 1) u) (elem 1 v)))
      (gfMul8 (elem (i - 2) u) (elem 2 v))) (gfMul8 (elem (i - 3) u) (elem 3 v)) := by
  have hstart : gfAdd8 0x00#8 (gfMul8 (elem (i - 0) u) (elem 0 v)) = gfMul8 (elem (i - 0) u) (elem 0 v) :=
    BitVec.zero_xor
  rw [← hstart]
  rfl

/-- An output element is the sum over `j` of `u_((i-j) mod 4) * v_j`, taken in the field of residues. -/
theorem byteClass_cmulElem (u v : Word) (i : Fin 4) :
    byteClass (cmulElem u v i) = ∑ j, byteClass (elem (i - j) u) * byteClass (elem j v) := by
  simp only [cmulElem_eq, byteClass_gfAdd8, byteClass_gfMul8, Fin.sum_univ_four]

theorem gfCmul32_ext {u v w : Word} (h : ∀ i, ∑ j, byteClass (elem (i - j) u) * byteClass (elem j v) =
    byteClass (elem i w)) : gfCmul32 u v = w := word_ext fun i => byteClass_injective <| by
  rw [elem_gfCmul32, byteClass_cmulElem, h i]

/-- Summing over `i - j` in place of `j` swaps the operands. -/
theorem gfCmul32_comm (u v : Word) : gfCmul32 u v = gfCmul32 v u := gfCmul32_ext fun i => by
  rw [elem_gfCmul32, byteClass_cmulElem, ← Equiv.sum_comp (Equiv.subLeft i)]
  simp [mul_comm]

theorem gfCmul32_gfAdd32 (u v w : Word) : gfCmul32 u (gfAdd32 v w) = gfAdd32 (gfCmul32 u v) (gfCmul32 u w) :=
  gfCmul32_ext fun i => by
    simp only [elem_gfAdd32, elem_gfCmul32, byteClass_gfAdd8, byteClass_cmulElem, mul_add, Finset.sum_add_distrib]

theorem gfAdd32_gfCmul32 (u v w : Word) : gfCmul32 (gfAdd32 u v) w = gfAdd32 (gfCmul32 u w) (gfCmul32 v w) := by
  simp only [gfCmul32_comm _ w, gfCmul32_gfAdd32]

theorem gfCmul32_zero (u : Word) : gfCmul32 u 0 = 0 := gfCmul32_ext fun i => by simp

theorem zero_gfCmul32 (v : Word) : gfCmul32 0 v = 0 := by rw [gfCmul32_comm, gfCmul32_zero]

/-! Words with one element 1 and the others 0: the identity and the rotations of R124. -/

/-- The word whose element `d` is 1 and whose other elements are 0. -/
def unitWord (d : Fin 4) : Word := 0x01000000#32 >>> (8 * d.val)

@[simp] theorem elem_unitWord : ∀ d k : Fin 4, elem k (unitWord d) = if k = d then 0x01#8 else 0x00#8 := by decide

/-- Only the term `j = d` of an output element is left, and its coefficient is 1. -/
theorem gfCmul32_unitWord (v : Word) (d : Fin 4) : gfCmul32 v (unitWord d) = v.rotateRight (8 * d.val) :=
  gfCmul32_ext fun i => by
    simp [elem_rotateRight, apply_ite byteClass]

theorem unitWord_gfCmul32 (d : Fin 4) (v : Word) : gfCmul32 (unitWord d) v = v.rotateRight (8 * d.val) := by
  rw [gfCmul32_comm, gfCmul32_unitWord]

theorem one_gfCmul32 (v : Word) : gfCmul32 0x01000000#32 v = v :=
  (unitWord_gfCmul32 0 v).trans <| word_ext fun k => by rw [elem_rotateRight, sub_zero]

/-- Settles O30: the laws of XOR and of sums of products in the field of residues. -/
theorem wordFunctionLaws : Obligations.WordFunctionLaws := fun u v w => by
  refine ⟨?_, ?_, gfAdd32_zero u, gfAdd32_self u, gfCmul32_comm u v, gfCmul32_gfAdd32 u v w, gfAdd32_gfCmul32 u v w,
    one_gfCmul32 v⟩
  · rw [gfAdd32_eq_xor, gfAdd32_eq_xor, BitVec.xor_comm]
  · simp only [gfAdd32_eq_xor, BitVec.xor_assoc]

/-! Which input elements an output element depends on (R126). -/

/-- Between operands that differ in element `j` alone, an output element differs by its term of `j` alone. -/
theorem elem_gfCmul32_eq_iff (u : Word) {v v' : Word} (i : Fin 4) {j : Fin 4}
    (h : ∀ k, k ≠ j → elem k v = elem k v') : elem i (gfCmul32 u v) = elem i (gfCmul32 u v') ↔
      gfMul8 (elem (i - j) u) (elem j v) = gfMul8 (elem (i - j) u) (elem j v') := by
  have hrest : ∀ k ∈ ({j}ᶜ : Finset (Fin 4)), byteClass (elem (i - k) u) * byteClass (elem k v) =
      byteClass (elem (i - k) u) * byteClass (elem k v') := fun k hk => by rw [h k (by simpa using hk)]
  rw [elem_gfCmul32, elem_gfCmul32, ← byteClass_injective.eq_iff, byteClass_cmulElem, byteClass_cmulElem,
    Fintype.sum_eq_add_sum_compl j, Fintype.sum_eq_add_sum_compl j, Finset.sum_congr rfl hrest, add_left_inj,
    ← byteClass_gfMul8, ← byteClass_gfMul8, byteClass_injective.eq_iff]

theorem zero_gfMul8 (a : Byte) : gfMul8 0x00#8 a = 0x00#8 := by rw [gfMul8_comm, gfMul8_zero]

theorem elem_gfCmul32_congr {u v v' : Word} {i j : Fin 4} (hu : elem (i - j) u = 0x00#8)
    (h : ∀ k, k ≠ j → elem k v = elem k v') : elem i (gfCmul32 u v) = elem i (gfCmul32 u v') := by
  rw [elem_gfCmul32_eq_iff u i h, hu, zero_gfMul8, zero_gfMul8]

/-- With a nonzero coefficient, the operands `unitWord j` and 0 give different output elements. -/
theorem exists_elem_gfCmul32_ne {u : Word} {i j : Fin 4} (hu : elem (i - j) u ≠ 0) : ∃ v v' : Word,
    (∀ k, k ≠ j → elem k v = elem k v') ∧ elem i (gfCmul32 u v) ≠ elem i (gfCmul32 u v') := by
  have hoff : ∀ k, k ≠ j → elem k (unitWord j) = elem k 0#32 := fun k hk => by simp [hk]
  refine ⟨unitWord j, 0#32, hoff, fun heq => hu ?_⟩
  rwa [elem_gfCmul32_eq_iff u i hoff, elem_unitWord, if_pos rfl, gfMul8_one, elem_zero_word, gfMul8_zero] at heq

/-- Settles O31: a zero coefficient drops its term, and a nonzero one tells 1 from 0. -/
theorem outputDependsExactlyOnNonzeroCoefficients : Obligations.OutputDependsExactlyOnNonzeroCoefficients := by
  refine ⟨fun u i j => ⟨?_, exists_elem_gfCmul32_ne⟩, fun u hu i j => exists_elem_gfCmul32_ne (hu (i - j)),
    fun v v' i h => by rwa [one_gfCmul32, one_gfCmul32]⟩
  rintro ⟨v, v', hoff, hne⟩ hu
  exact hne (elem_gfCmul32_congr hu hoff)

/-! The operations ADD32 and CMUL32 (R123, R124). -/

/-- After a first reset a command that delivers the word `d` without error changes `RES`, `OV` and `OE` only (R34,
R140). -/
theorem exec_eq_next_of_word {i : Instr} {s : State} (hs : s.resetDone = true) {d : Word}
    (hr : execute i.opcode i.portA i.portB = ⟨d, false⟩) :
    exec i s = .next { s with res := d, ov := true, oe := false } := by
  rw [exec_eq_next i hs, hr, State.accept_eq, Bool.or_false]

theorem exec_add32 (a b : Word) {s : State} (hs : s.resetDone = true) :
    exec (.add32 a b) s = .next { s with res := a ^^^ b, ov := true, oe := false } := by
  rw [← gfAdd32_eq_xor]
  exact exec_eq_next_of_word hs (execute_5 a b)

theorem exec_cmul32 (a b : Word) {s : State} (hs : s.resetDone = true) :
    exec (.cmul32 a b) s = .next { s with res := gfCmul32 a b, ov := true, oe := false } :=
  exec_eq_next_of_word hs (execute_6 a b)

/-- Settles O37: the response is the sum of words, which is XOR. -/
theorem add32AddsWords : Obligations.Add32AddsWords :=
  ⟨fun a b _ hs => ⟨decodeFields_5 a b, exec_add32 a b hs, gfAdd32_eq_xor a b⟩, fun u =>
    ⟨gfAdd32_self u, gfAdd32_zero u⟩, by decide, by decide⟩

/-- Settles O38: the response is the circulant product, and its corner cases are laws of that product. -/
theorem cmul32MultipliesCirculant : Obligations.Cmul32MultipliesCirculant := by
  refine ⟨fun a b s hs => ⟨decodeFields_6 a b, ?_, exec_cmul32 a b hs⟩, fun u v =>
    ⟨zero_gfCmul32 v, gfCmul32_zero u, one_gfCmul32 v, unitWord_gfCmul32 1 v, unitWord_gfCmul32 2 v,
      unitWord_gfCmul32 3 v, gfCmul32_comm u v⟩, fun _ _ _ _ _ => elem_gfCmul32_congr, ?_⟩
  · rw [exec_cmul32 a b hs, gfCmul32, cmulElem_eq, cmulElem_eq, cmulElem_eq, cmulElem_eq]
    rfl
  · decide

end Sys2Proof.Machine
end

section
/-! PROOFS. Errors and progress: what a reserved command does and what it leaves unchanged, and that after a first reset
no command and no edge stops (rules R140 to R142, R166). -/

namespace Sys2Proof.Machine

/-! Progress of the block (R166). -/

theorem exists_step_of_resetDone {s : State} (hs : s.resetDone = true) : ∃ t : State, step s = .next t := by
  cases hr : s.nextMove.rst with
  | true => exact ⟨_, step_of_rst hr⟩
  | false =>
    cases hv : s.nextMove.inValid with
    | true => exact ⟨_, step_of_accepted hs hr hv⟩
    | false => exact ⟨_, step_of_idle hs hr hv⟩

/-- Every edge uses up one move of the host, whatever the move is (R34, R36). -/
theorem host_of_step {s t : State} (h : step s = .next t) : t.host = s.host.tail := by
  obtain ⟨-, rfl⟩ | ⟨-, -, -, rfl⟩ | ⟨-, -, -, rfl⟩ := step_cases h <;> rfl

/-- Settles O48, by induction on the edges: each one answers, and leaves the block after a first reset. -/
theorem blockNeverStopsAfterReset : Obligations.BlockNeverStopsAfterReset := by
  intro n
  induction n with
  | zero => exact fun s hs => ⟨s, edges_zero s, hs, rfl, rfl⟩
  | succ n ih =>
    intro s hs
    obtain ⟨t, hstep⟩ := exists_step_of_resetDone hs
    obtain ⟨u, hedges, hreset, hhost, hready⟩ := ih t (resetDone_of_step hstep)
    refine ⟨u, (edges_succ_of_next n hstep).trans hedges, hreset, ?_, hready⟩
    rw [hhost, host_of_step hstep, List.drop_tail]

/-! Reserved commands (R65, R141). -/

theorem legal_eq_false_iff (i : Instr) : legal i = false ↔ 7 ≤ i.opcode.toNat := by
  rw [legal_eq_not_reserved, Bool.not_eq_false', decide_eq_true_iff]

/-- The response of a reserved opcode is the error response, whatever the operands (R141). -/
theorem execute_of_reserved {op : Opcode} (h : 7 ≤ op.toNat) (a b : Word) : execute op a b = ⟨0x00000000#32, true⟩ :=
  congrArg₂ Response.mk (execute_data_of_reserved op a b h) ((execute_err op a b).trans (decide_eq_true h))

/-- After a first reset a reserved command gives the error response and changes nothing else (R34, R141). -/
theorem exec_of_reserved {i : Instr} {s : State} (hs : s.resetDone = true) (h : 7 ≤ i.opcode.toNat) :
    exec i s = .next { s with res := 0x00000000#32, ov := true, oe := true, es := true } := by
  rw [exec_eq_next i hs, execute_of_reserved h, State.accept_eq, Bool.or_true]

/-- A reserved command that answers a next state can have done nothing but give the error response (R141). -/
theorem eq_of_exec_reserved {i : Instr} {s t : State} (hi : legal i = false) (h : exec i s = .next t) :
    t = { s with res := 0x00000000#32, ov := true, oe := true, es := true } :=
  Host.Outcome.next.inj (h.symm.trans (exec_of_reserved (exec_cases h).1 ((legal_eq_false_iff i).1 hi)))

/-- `out_err` shows 1 exactly after a reserved command (R27, R141). -/
theorem outErr_of_exec {i : Instr} {s t : State} (h : exec i s = .next t) :
    t.outErr = some true ↔ 7 ≤ i.opcode.toNat := by
  obtain ⟨hs, rfl⟩ := exec_cases h
  rw [State.outErr, State.shown_of_resetDone ((State.accept_resetDone _ _ _).trans hs), State.accept_oe, execute_err,
    Option.some_inj, decide_eq_true_iff]

/-- Settles O39: a command with such an opcode is a reserved one, and the nine constructors are the reserved ones. -/
theorem reservedOpcodesAnswerError : Obligations.ReservedOpcodesAnswerError := by
  intro a b s hs
  refine ⟨fun op hop => ?_, fun i hi => ?_, fun i t => outErr_of_exec⟩
  · obtain ⟨hopcode, -, -⟩ := decodeFields_fields op a b
    exact exec_of_reserved hs (by rwa [hopcode])
  · have hop : 7 ≤ i.opcode.toNat := by
      rw [← legal_eq_false_iff]
      revert i
      simp [legal]
    exact ⟨hop, exec_of_reserved hs hop⟩

/-- Settles O42: the host's moves and the reset marker are not among the registers of the error response. -/
theorem reservedCommandFrame : Obligations.ReservedCommandFrame := by
  intro i s t hi h
  obtain rfl := eq_of_exec_reserved hi h
  exact ⟨rfl, rfl, rfl, rfl, rfl, rfl⟩

/-- Settles O45: no response depends on the registers, and ES, once 1, stays 1 under the OR of R34. -/
theorem errorIsPreciseAndLocal : Obligations.ErrorIsPreciseAndLocal := by
  intro r c s t hs hr h
  obtain rfl := eq_of_exec_reserved hr h
  refine ⟨_, exec_eq_next c hs, (exec_eq_next c ?_).trans ?_⟩
  · exact hs
  · rw [State.accept_eq, Bool.true_or, State.accept_eq]

/-! Legal commands (R140). -/

/-- Settles O40: every command answers its response, and that of a legal opcode has no error bit. -/
theorem noDataDependentErrors : Obligations.NoDataDependentErrors := by
  intro op a b s hop hs
  have herr : (execute op a b).err = false := by rw [execute_err, decide_eq_false (Nat.not_le.2 hop)]
  obtain ⟨hopcode, ha, hb⟩ := decodeFields_fields op a b
  refine ⟨_, exec_eq_next _ hs, ?_⟩
  rw [hopcode, ha, hb]
  exact ⟨herr, rfl, rfl, herr⟩

end Sys2Proof.Machine
end

section
/-! PROOFS. The end of a host program: its edges up to the last command show what the transaction view says of it (rules
R34, R68, R172, log entry 12). -/

namespace Sys2Proof.Machine

/-! Several edges, one after another. -/

theorem edges_succ_eq_next_iff {n : Nat} {s u : State} :
    edges (n + 1) s = .next u ↔ ∃ t : State, step s = .next t ∧ edges n t = .next u := by
  rw [edges]
  cases step s <;> simp

/-- What is read over `m + n` edges is what is read over the first `m` and then over the next `n`. -/
theorem observe_add {m : Nat} {s t : State} (n : Nat) (h : edges m s = .next t) :
    observe (m + n) s = observe m s ++ observe n t := by
  induction m generalizing s with
  | zero =>
    obtain rfl : s = t := Host.Outcome.next.inj h
    rw [Nat.zero_add]
    rfl
  | succ m ih =>
    obtain ⟨u, hstep, hedges⟩ := edges_succ_eq_next_iff.1 h
    rw [Nat.add_right_comm, observe_succ_of_next _ hstep, observe_succ_of_next _ hstep, ih hedges, List.append_assoc]

/-- Edges see a state through its first step only. -/
theorem edges_congr_of_step {n : Nat} {s s' : State} (hn : n ≠ 0) (h : step s = step s') :
    edges n s = edges n s' := by
  obtain ⟨k, rfl⟩ := Nat.exists_eq_succ_of_ne_zero hn
  rw [edges, edges, h]

theorem observe_congr_of_step {s s' : State} (n : Nat) (h : step s = step s') : observe n s = observe n s' := by
  cases n with
  | zero => rfl
  | succ n => rw [observe, observe, h]

/-! Lines that a program begins with. -/

/-- The state after the edges of some listing lines, from a state after a first reset (R34, R68). -/
def State.afterLineEdges (s : State) (p : List Line) : State := p.foldl State.afterLineEdge s

theorem State.afterLineEdges_cons (s : State) (l : Line) (p : List Line) :
    s.afterLineEdges (l :: p) = (s.afterLineEdge l).afterLineEdges p := rfl

theorem State.afterLineEdges_concat (s : State) (p : List Line) (l : Line) :
    s.afterLineEdges (p ++ [l]) = (s.afterLineEdges p).afterLineEdge l := List.foldl_concat ..

theorem State.afterLineEdges_resetDone {s : State} (hs : s.resetDone = true) (p : List Line) :
    (s.afterLineEdges p).resetDone = true := by
  induction p generalizing s with
  | nil => exact hs
  | cons l p ih => exact ih (State.afterLineEdge_resetDone hs l)

theorem State.afterLineEdges_registers (s : State) (p : List Line) :
    ((s.afterLineEdges p).res, (s.afterLineEdges p).es) = afterLines p (s.res, s.es) := by
  induction p generalizing s with
  | nil => rfl
  | cons l p ih => rw [State.afterLineEdges_cons, ih, State.afterLineEdge_registers, afterLines_cons]

/-- The edges of the lines a program begins with leave its other lines to be driven. -/
theorem edges_load_append {s : State} (hs : s.resetDone = true) (p rest : List Line) :
    edges p.length (s.load (p ++ rest)) = .next ((s.afterLineEdges p).load rest) := by
  induction p generalizing s with
  | nil => rfl
  | cons l p ih =>
    rw [List.length_cons, List.cons_append, edges_succ_of_next _ (step_load_cons hs l _),
      ih (State.afterLineEdge_resetDone hs l), State.afterLineEdges_cons]

/-! The last command of a program (R172). -/

theorem isCommand_eq_true_iff {l : Line} :
    isCommand l = true ↔ ∃ (op : Opcode) (a b : Option Word), Line.command op a b = l := by
  cases l <;> simp

theorem filterMap_lineResponse_eq_nil {p : List Line} (h : p.any isCommand = false) :
    p.filterMap lineResponse = [] := by
  rw [List.any_eq_false] at h
  exact List.filterMap_eq_nil_iff.2 fun l hl => (lineResponse_eq_none_iff l).2 (Bool.eq_false_of_not_eq_true (h l hl))

/-- The lines up to the last command end with it. -/
theorem exists_untilLastCommand_eq_concat {p : List Line} (h : p.any isCommand = true) :
    ∃ (before : List Line) (c : Line), untilLastCommand p = before ++ [c] ∧ isCommand c = true := by
  induction p with
  | nil => cases h
  | cons l p ih =>
    have huntil : untilLastCommand (l :: p) = l :: untilLastCommand p := if_pos h
    cases hp : p.any isCommand with
    | true =>
      obtain ⟨before, c, hbefore, hc⟩ := ih hp
      exact ⟨l :: before, c, by rw [huntil, hbefore, List.cons_append], hc⟩
    | false =>
      rw [List.any_cons, hp, Bool.or_false] at h
      exact ⟨[], l, by rw [huntil, untilLastCommand_eq_nil hp, List.nil_append], h⟩

theorem untilLastCommand_length_ne_zero {p : List Line} (h : p.any isCommand = true) :
    (untilLastCommand p).length ≠ 0 := by
  obtain ⟨before, c, hbefore, -⟩ := exists_untilLastCommand_eq_concat h
  simp [hbefore]

/-- Lines after the last command have no response. -/
theorem filterMap_lineResponse_untilLastCommand (p : List Line) :
    (untilLastCommand p).filterMap lineResponse = p.filterMap lineResponse := by
  obtain ⟨rest, hp, hrest⟩ := exists_untilLastCommand_append p
  conv_rhs => rw [hp, List.filterMap_append, filterMap_lineResponse_eq_nil hrest, List.append_nil]

theorem programEnd_eq_some_iff {p : List Line} {r : Word × Bool} {e : ProgramEnd} :
    programEnd p r = some e ↔ p.any isCommand = true ∧
      e = ⟨(afterLines (untilLastCommand p) r).1, (afterLines (untilLastCommand p) r).2,
        p.filterMap lineResponse⟩ := by
  cases h : p.any isCommand <;> simp [programEnd, h, eq_comm]

/-! The edges up to the last command. -/

/-- What R172 says of the cycle `t` that ends a program `p` of the block `s`: it is reached by the edges up to the last
command, it shows the last response, and all responses have been read by then. -/
structure EndsAt (p : List Line) (s t : State) : Prop where
  edges : edges (untilLastCommand p).length (s.load p) = .next t
  response : t.response = (p.filterMap lineResponse).getLast?
  response_isSome : t.response.isSome = true
  registers : (t.res, t.es) = afterLines (untilLastCommand p) (s.res, s.es)
  observe : observe (untilLastCommand p).length (s.load p) = p.filterMap lineResponse

/-- The responses read up to the last command are all the responses of the program: no line after it has one. -/
theorem observe_untilLastCommand {s : State} (hs : s.resetDone = true) (p : List Line) :
    observe (untilLastCommand p).length (s.load p) = p.filterMap lineResponse := by
  obtain ⟨rest, hp, hrest⟩ := exists_untilLastCommand_append p
  have hedges := edges_load_append hs (untilLastCommand p) rest
  rw [← hp] at hedges
  calc
    _ = observe (untilLastCommand p).length (s.load p) ++
          observe rest.length ((s.afterLineEdges (untilLastCommand p)).load rest) := by
      rw [responsesComeInCommandOrder rest _ (State.afterLineEdges_resetDone hs _), filterMap_lineResponse_eq_nil hrest,
        List.append_nil]
    _ = observe p.length (s.load p) := by rw [← observe_add _ hedges, ← List.length_append, ← hp]
    _ = _ := responsesComeInCommandOrder p s hs

theorem exists_endsAt_of_resetDone {p : List Line} {s : State} (hs : s.resetDone = true) (hp : p.any isCommand = true) :
    ∃ t : State, EndsAt p s t := by
  obtain ⟨rest, hrest, -⟩ := exists_untilLastCommand_append p
  obtain ⟨before, c, hbefore, hc⟩ := exists_untilLastCommand_eq_concat hp
  have hedges := edges_load_append hs (untilLastCommand p) rest
  rw [← hrest] at hedges
  have hresponse : State.response ((s.afterLineEdges (untilLastCommand p)).load rest) = lineResponse c := by
    rw [hbefore, State.afterLineEdges_concat]
    exact State.afterLineEdge_response (State.afterLineEdges_resetDone hs before) c rest
  obtain ⟨op, a, b, rfl⟩ := isCommand_eq_true_iff.1 hc
  refine ⟨_, hedges, ?_, ?_, State.afterLineEdges_registers s _, observe_untilLastCommand hs p⟩
  · rw [hresponse, ← filterMap_lineResponse_untilLastCommand, hbefore, List.filterMap_append]
    exact List.getLast?_concat.symm
  · rw [hresponse]
    rfl

/-- A program whose first line is a reset runs from power-up as it runs after a first reset (R160, R164). -/
theorem step_load_reset (s : State) (p : List Line) :
    step (s.load (.reset :: p)) = step (State.load { s with resetDone := true } (.reset :: p)) :=
  (step_of_rst (s := s.load (.reset :: p)) rfl).trans
    (step_load_cons (s := { s with resetDone := true }) rfl .reset p).symm

theorem exists_endsAt {p : List Line} {s : State} (hs : s.resetDone = true ∨ p.head? = some .reset)
    (hp : p.any isCommand = true) : ∃ t : State, EndsAt p s t := by
  obtain hs | hhead := hs
  · exact exists_endsAt_of_resetDone hs hp
  · obtain ⟨tail, rfl⟩ := List.head?_eq_some_iff.1 hhead
    obtain ⟨t, hedges, hresponse, hsome, hregs, hobserve⟩ :=
      exists_endsAt_of_resetDone (s := { s with resetDone := true }) rfl hp
    have hstep := step_load_reset s tail
    exact ⟨t, (edges_congr_of_step (untilLastCommand_length_ne_zero hp) hstep).trans hedges, hresponse, hsome, hregs,
      (observe_congr_of_step _ hstep).trans hobserve⟩

/-- Settles O55: a program with a command ends with the edge of its last one, whose response the next cycle shows. -/
theorem programEndsWithResponseToLastCommand : Obligations.ProgramEndsWithResponseToLastCommand := by
  refine ⟨fun p r => ?_, fun p s e hs he => ?_⟩
  · simp only [programEnd_eq_some_iff, exists_and_left, exists_eq, and_true, List.any_eq_true, isCommand_eq_true_iff]
    constructor
    · rintro ⟨l, hl, op, a, b, rfl⟩
      exact ⟨op, a, b, hl⟩
    · rintro ⟨op, a, b, hl⟩
      exact ⟨_, hl, op, a, b, rfl⟩
  · obtain ⟨hp, rfl⟩ := programEnd_eq_some_iff.1 he
    obtain ⟨t, hedges, hresponse, hsome, hregs, hobserve⟩ := exists_endsAt hs hp
    obtain ⟨hres, hes⟩ := Prod.mk.inj hregs
    exact ⟨t, hedges, hresponse, hsome, hres, hes, hobserve, rfl⟩

end Sys2Proof.Machine
end

section
/-! PROOFS. Reset edges, and the one edge of a command (rules R160, R161, R165, R170). -/

namespace Sys2Proof.Machine

/-- Settles O7: the reset case of a step looks at `rst` alone. -/
theorem resetWinsOverCommand : Obligations.ResetWinsOverCommand := by
  intro s m rest hhost hr
  rw [← nextMove_of_cons hhost] at hr
  rw [step_of_rst hr, hhost]
  rfl

/-- Reset edges keep the reset state (R161). -/
theorem edges_of_rst_from_reset (ms rest : List HostMove) (h : ∀ m ∈ ms, m.rst = true) :
    edges ms.length { State.reset with host := ms ++ rest } = .next { State.reset with host := rest } := by
  induction ms with
  | nil => rfl
  | cons m ms ih =>
    obtain ⟨hm, hms⟩ := List.forall_mem_cons.1 h
    exact (edges_succ_of_next _ (resetWinsOverCommand _ m (ms ++ rest) rfl hm)).trans (ih hms)

/-- Settles O6: the first reset edge leaves the reset state, and the others keep it. -/
theorem oneResetEdgeResetsFully : Obligations.OneResetEdgeResetsFully := by
  intro s ms rest hne h hhost
  obtain ⟨m, ms, rfl⟩ := List.exists_cons_of_ne_nil hne
  obtain ⟨hm, hms⟩ := List.forall_mem_cons.1 h
  exact (edges_succ_of_next _ (resetWinsOverCommand s m (ms ++ rest) hhost hm)).trans
    (edges_of_rst_from_reset ms rest hms)

/-- Settles O49: the edge that accepts a command is the one that registers its response. -/
theorem everyCommandTakesOneEdge : Obligations.EveryCommandTakesOneEdge := by
  intro s op a b rest hs hhost
  have hm := nextMove_of_cons hhost
  have hstep := step_of_accepted hs (by rw [hm]; rfl) (by rw [hm]; rfl)
  rw [hm] at hstep
  have ht := resetDone_of_step hstep
  exact ⟨_, edges_one hstep, State.shown_of_resetDone ht _, State.shown_of_resetDone ht _,
    State.shown_of_resetDone ht _, by simp [hhost]⟩

end Sys2Proof.Machine
end
